-- ==== Sys2Proof/Word.lean ====
section
/-! DEFINITION. The byte and the 16-bit half word of the block, and byte strings (00_scope.md R8, R9). -/

namespace Sys2Proof

/-- A byte: 8 bits (R8). -/
abbrev Byte := BitVec 8

/-- A 16-bit value: the token and the signature (R22). -/
abbrev Half := BitVec 16

/-- A byte string (R9): byte 0 is the byte that goes first. -/
abbrev Bytes := List Byte

/-- `v[7:0]` of a 16-bit value. -/
def Half.lo (h : Half) : Byte := h.extractLsb' 0 8

/-- `v[15:8]` of a 16-bit value. -/
def Half.hi (h : Half) : Byte := h.extractLsb' 8 8

/-- `{hi, lo}`, with `hi` most significant (R8). -/
def Half.mk (hi lo : Byte) : Half := hi ++ lo

end Sys2Proof
end

