-- ==== Sys2Proof/Config.lean ====
section
/-! DEFINITION. What an implementation fixes (00_scope.md R6, R7), and the free values: constants without a body,
about which nothing can be proved. A machine's parameters are the plain-data record `Config` that its State holds. -/

namespace Sys2Proof

/-! ## Constants the source fixes (R6) -/

def headerBytes : Nat := 6
def msgFixedBytes : Nat := 2
def dataMax : Nat := 32
def trailerBytes : Nat := 2
/-- `L_ACK`, the length byte of an ACK frame. -/
def lAck : Nat := 5
/-- `L_MSG(n)`, the length byte of a MSG frame with `n` data bytes. -/
def lMsg (n : Nat) : Nat := 7 + n
def frameMaxBytes : Nat := 40
def pageBytes : Nat := 40
def queuePages : Nat := 20
def ackWindowMs : Nat := 300
def broadcastAddr : Byte := 0
def addrMin : Byte := 1
def addrMax : Byte := 126

/-! ## Parameters (R7) -/

/-- The parameters that R7 marks OPEN and gives no default: the radio's symbolic ids, predicates and the clock.
A predicate on bytes is the list of the bytes it holds of, and `RXCOUNT_DECODE` is its table of 256 rows (log 6). -/
structure RadioIds where
  clkHz : Nat
  isTxDone : List Byte
  isRxArmed : List Byte
  regMarcstate : Byte
  regRxbytes : Byte
  regVersion : Byte
  regPartnum : Byte
  cmdTxfifo : Byte
  cmdRxfifo : Byte
  strobeTx : Byte
  strobeRx : Byte
  strobeFlushRx : Byte
  rxCountRows : List (Bool × Byte)
  deriving DecidableEq, Repr, Inhabited

/-- The constraints R7 puts on the open parameters: the two state predicates disjoint, the register ids distinct, the
strobes distinct. -/
def RadioIds.wf (r : RadioIds) : Bool :=
  (r.isTxDone.all fun b => !r.isRxArmed.contains b) &&
  decide ([r.regMarcstate, r.regRxbytes, r.regVersion, r.regPartnum].Nodup) &&
  decide ([r.strobeTx, r.strobeRx, r.strobeFlushRx].Nodup)

/-- All parameters of a block (R7). -/
structure Config where
  fifoCap : Nat
  ptAck : Byte
  ptMsg : Byte
  tokenLe : Bool
  powerLevels : List Byte
  maxRetriesBits : Nat
  spinLimit : Option Nat
  replyToUnmatchedAck : Bool
  radio : RadioIds
  deriving DecidableEq, Repr

/-- `POWER_VALID(p)` (R7, R181). -/
def Config.powerValid (c : Config) (p : Byte) : Bool := c.powerLevels.contains p

/-- `RXCOUNT_DECODE(b)`: the overflow condition and the pending-byte count, a natural below 256 (R141). -/
def Config.rxCountDecode (c : Config) (b : Byte) : Bool × Nat :=
  let row := c.radio.rxCountRows.getD b.toNat (false, 0)
  (row.1, row.2.toNat)

/-- The constraints of R7. -/
def Config.wf (c : Config) : Bool :=
  decide (42 ≤ c.fifoCap) && decide (c.ptAck ≠ c.ptMsg) &&
  (!c.powerLevels.contains 0 && decide (c.powerLevels.Nodup) && decide (c.powerLevels.length = 8)) &&
  decide (1 ≤ c.maxRetriesBits) && decide (c.spinLimit ≠ some 0) && c.radio.wf

/-- The operand latches of R25. `opData` is a byte space of its own. -/
structure Latches where
  opCode : BitVec 3
  opAddr : Byte
  opPower : Byte
  opSig : Half
  opRecipient : Byte
  opMsgType : Byte
  opDataLen : Byte
  maxRetriesR : Nat
  deriving DecidableEq, Repr, Inhabited

/-! ## Free values (log 1, log 2, log 5, log 11) -/

/-- The byte the environment answers when no answer is scripted: any byte (R145). -/
opaque Config.freeByte : Nat → Byte

/-- The level of `rx_ready` at a sample when none is scripted: any level (R49, R145). -/
opaque Config.freeLevel : Nat → Bool

/-- What the operand latches hold after an acceptance, but for the accepted command's own fields: unspecified (R25). -/
opaque Config.freeLatches : Nat → Latches

/-- The parameters R7 leaves open without a default: any values. -/
opaque Config.openIds : RadioIds

/-- A record that meets R7's constraints, used only so that `Config.reset` is known to meet them when `openIds` does
not. Its values are those 93_implementation_defined.md G4 to G6 offer from general knowledge (PRESUMED, log 5). -/
def Config.fallbackIds : RadioIds where
  clkHz := 0
  isTxDone := (List.range 8).map fun k => BitVec.ofNat 8 (32 * k + 0x01)
  isRxArmed := (List.range 8).map fun k => BitVec.ofNat 8 (32 * k + 0x0D)
  regMarcstate := 0x35
  regRxbytes := 0x3B
  regVersion := 0x31
  regPartnum := 0x30
  cmdTxfifo := 0x7F
  cmdRxfifo := 0xFF
  strobeTx := 0x35
  strobeRx := 0x34
  strobeFlushRx := 0x3A
  rxCountRows := (List.range 256).map fun b => (decide (128 ≤ b), BitVec.ofNat 8 (b % 128))

/-- The spec's default parameters (R7); where it gives no default, any values that meet its constraints. -/
def Config.default : Config where
  fifoCap := 64
  ptAck := 0x00
  ptMsg := 0x01
  tokenLe := true
  powerLevels := [1, 2, 3, 4, 5, 6, 7, 8]
  maxRetriesBits := 8
  spinLimit := none
  replyToUnmatchedAck := true
  radio := if Config.openIds.wf then Config.openIds else Config.fallbackIds

end Sys2Proof
end

