-- ==== Sys2Proof/Syntax.lean ====
section
/-! DEFINITION. The instruction set (30_encoding.md R90): one constructor for each row of opcode_table.json, in the three
formats FRAME, CMD and RADIO. -/

namespace Sys2Proof

/-- The three formats (R90). The port an encoding arrives at tells its format: the numbers of two formats may coincide. -/
inductive Format where
  | frame
  | cmd
  | radio
  deriving DecidableEq, Repr

inductive Instr where
  /-- FRAME.ACK (R91). -/
  | frameAck (recipient sender : Byte) (token : Half)
  /-- FRAME.MSG (R92); `dataLen` is the number of data bytes. -/
  | frameMsg (recipient sender : Byte) (token : Half) (msgType : Byte) (data : Bytes)
  /-- INIT (R181). -/
  | init (addr power : Byte) (signature : Half)
  /-- POLL (R210). -/
  | poll
  /-- GET_MESSAGE (R244). -/
  | getMessage
  /-- POST_MESSAGE (R182); `data` is the whole 32-byte operand. -/
  | postMessage (recipient msgType dataLen : Byte) (data : Bytes) (maxRetries : Nat)
  /-- GET_VERSION (R142). -/
  | getVersion
  /-- GET_PARTNUMBER (R143). -/
  | getPartNumber
  /-- READ_REG (R131). -/
  | readReg (id : Byte)
  /-- WRITE_REG (R132). -/
  | writeReg (id value : Byte)
  /-- READ_BURST (R133). -/
  | readBurst (cmd : Byte) (len : Nat)
  /-- WRITE_BURST (R134). -/
  | writeBurst (cmd : Byte) (bytes : Bytes)
  /-- STROBE (R135). -/
  | strobe (cmd : Byte)
  deriving DecidableEq, Repr

/-- The format of a row (R90). -/
def Instr.format : Instr → Format
  | .frameAck .. | .frameMsg .. => .frame
  | .init .. | .poll | .getMessage | .postMessage .. | .getVersion | .getPartNumber => .cmd
  | .readReg .. | .writeReg .. | .readBurst .. | .writeBurst .. | .strobe .. => .radio

end Sys2Proof
end

