-- ==== Sys2Proof/WellFormed.lean ====
section
/-! DEFINITION. Which instructions the encodings of 30_encoding.md can hold (R91, R92, R101, R102, R133, R134). Operand values
that a command's own rule tests (an address, a power level, `dataLen`) are not limited here: R104 gives them an effect. -/

namespace Sys2Proof

def Instr.wf (c : Config) : Instr → Bool
  | .frameAck _ _ _ => true
  | .frameMsg _ _ _ _ data => decide (data.length ≤ dataMax)
  | .init _ _ _ => true
  | .poll => true
  | .getMessage => true
  | .postMessage _ _ _ data maxRetries =>
    decide (data.length = dataMax) && decide (maxRetries < 2 ^ c.maxRetriesBits)
  | .getVersion => true
  | .getPartNumber => true
  | .readReg _ => true
  | .writeReg _ _ => true
  -- a count the block can read is below 256 (R141), so a length fits the record's byte (log 8)
  | .readBurst _ len => decide (1 ≤ len) && decide (len ≤ c.fifoCap) && decide (len < 256)
  | .writeBurst _ bytes => decide (headerBytes ≤ bytes.length) && decide (bytes.length ≤ frameMaxBytes)
  | .strobe _ => true

end Sys2Proof
end

