-- ==== Sys2Proof/Decode.lean ====
section
/-! DEFINITION. Encodings (30_encoding.md): the decoder, total on any byte string and rejecting by name, then the encoder.
A frame is laid out by R91, R92; how a command record and a transaction record lie in bytes is the model's (log 7, log 8). -/

namespace Sys2Proof

/-- Why a received frame is malformed: the reasons of 41_codec.md R165. -/
inductive Malformed where
  | shortHeader
  | truncated
  | ackLength
  | msgShort
  | dataLen
  | lengthMismatch
  | reservedType
  deriving DecidableEq, Repr

/-- Why a byte string is no instruction of its format. -/
inductive DecodeError where
  /-- No byte at all. -/
  | empty
  /-- The bits above the 3-bit code are not zero, so the string is no record (log 7). -/
  | codeBits (b : Byte)
  /-- `op` 6 or 7 (R104): refused by the block with a response (R273). -/
  | reservedOp (op : BitVec 3)
  /-- `kind` 5, 6 or 7: never issued (R102). -/
  | reservedKind (kind : BitVec 3)
  /-- The operand bytes are not as many as the row has. -/
  | operandBytes
  /-- An operand outside the range of its field (R101, R102). -/
  | operandRange
  /-- A frame that fails R165. -/
  | malformed (why : Malformed)
  deriving DecidableEq, Repr

/-! ## Fields -/

/-- A natural from bytes, the low byte first. -/
def leNat : Bytes → Nat
  | [] => 0
  | b :: bs => b.toNat + 256 * leNat bs

/-- The low `k` bytes of a natural, the low byte first. -/
def leBytes : Nat → Nat → Bytes
  | 0, _ => []
  | k + 1, n => BitVec.ofNat 8 n :: leBytes k (n / 256)

/-- The bytes the `maxRetries` operand takes in a command record (log 7). -/
def retryBytes (c : Config) : Nat := (c.maxRetriesBits + 7) / 8

/-- The token of the bytes at frame offsets 3 and 4 (R62, R96). -/
def tokenOf (c : Config) (b3 b4 : Byte) : Half :=
  if c.tokenLe then Half.mk b4 b3 else Half.mk b3 b4

/-- The bytes at frame offsets 3 and 4 (R161, R162). -/
def tokenBytes (c : Config) (t : Half) : Byte × Byte :=
  if c.tokenLe then (t.lo, t.hi) else (t.hi, t.lo)

/-! ## Frames -/

/-- Checks 3 to 7 of R165 on the `L + 1` bytes of a frame, `5 <= L`, and the fields of R164. -/
def parseFrame (c : Config) (F : Bytes) : Except Malformed Instr :=
  let L := (F.getD 0 0).toNat
  let type := F.getD 5 0
  let token := tokenOf c (F.getD 3 0) (F.getD 4 0)
  let n := (F.getD 7 0).toNat
  if type = c.ptAck then
    if L ≠ lAck then .error .ackLength
    else .ok (.frameAck (F.getD 1 0) (F.getD 2 0) token)
  else if type = c.ptMsg then
    if L < 7 then .error .msgShort
    else if n > dataMax then .error .dataLen
    else if L ≠ lMsg n then .error .lengthMismatch
    else .ok (.frameMsg (F.getD 1 0) (F.getD 2 0) token (F.getD 6 0) ((F.drop 8).take n))
  else .error .reservedType

/-- A frame alone, with no trailer: its length byte tells its length (R94, R105). -/
def decodeFrame (c : Config) (F : Bytes) : Except DecodeError Instr :=
  match F with
  | [] => .error .empty
  | l :: _ =>
    if l.toNat < 5 then .error (.malformed .shortHeader)
    else if F.length < l.toNat + 1 then .error (.malformed .truncated)
    else if l.toNat + 1 < F.length then .error .operandBytes
    else match parseFrame c F with
      | .ok i => .ok i
      | .error w => .error (.malformed w)

/-! ## Command records -/

/-- The operands of POST_MESSAGE after recipient, msgType and dataLen (R101). -/
def decodePost (c : Config) (r m n : Byte) (rest : Bytes) : Except DecodeError Instr :=
  if rest.length ≠ dataMax + retryBytes c then .error .operandBytes
  else
    let retries := leNat (rest.drop dataMax)
    if retries < 2 ^ c.maxRetriesBits then .ok (.postMessage r m n (rest.take dataMax) retries)
    else .error .operandRange

/-- A command record (R45, R100, R101). -/
def decodeCmd (c : Config) (bs : Bytes) : Except DecodeError Instr :=
  match bs with
  | [] => .error .empty
  | b :: ops =>
    match b.toNat, ops with
    | 0, [a, p, s0, s1] => .ok (.init a p (Half.mk s1 s0))
    | 0, _ => .error .operandBytes
    | 1, [] => .ok .poll
    | 1, _ => .error .operandBytes
    | 2, [] => .ok .getMessage
    | 2, _ => .error .operandBytes
    | 3, r :: m :: n :: rest => decodePost c r m n rest
    | 3, _ => .error .operandBytes
    | 4, [] => .ok .getVersion
    | 4, _ => .error .operandBytes
    | 5, [] => .ok .getPartNumber
    | 5, _ => .error .operandBytes
    | 6, _ => .error (.reservedOp 6)
    | 7, _ => .error (.reservedOp 7)
    | _, _ => .error (.codeBits b)

/-! ## Radio-port transaction records -/

def decodeReadBurst (c : Config) (cmd len : Byte) : Except DecodeError Instr :=
  if (Instr.readBurst cmd len.toNat).wf c then .ok (.readBurst cmd len.toNat) else .error .operandRange

def decodeWriteBurst (c : Config) (cmd : Byte) (B : Bytes) : Except DecodeError Instr :=
  if (Instr.writeBurst cmd B).wf c then .ok (.writeBurst cmd B) else .error .operandBytes

/-- A radio-port transaction record (R47, R102). -/
def decodeRadio (c : Config) (bs : Bytes) : Except DecodeError Instr :=
  match bs with
  | [] => .error .empty
  | b :: ops =>
    match b.toNat, ops with
    | 0, [id] => .ok (.readReg id)
    | 0, _ => .error .operandBytes
    | 1, [id, v] => .ok (.writeReg id v)
    | 1, _ => .error .operandBytes
    | 2, [cmd, len] => decodeReadBurst c cmd len
    | 2, _ => .error .operandBytes
    | 3, cmd :: B => decodeWriteBurst c cmd B
    | 3, _ => .error .operandBytes
    | 4, [cmd] => .ok (.strobe cmd)
    | 4, _ => .error .operandBytes
    | 5, _ => .error (.reservedKind 5)
    | 6, _ => .error (.reservedKind 6)
    | 7, _ => .error (.reservedKind 7)
    | _, _ => .error (.codeBits b)

/-- The decoder: the port a string arrives at gives its format (R90). -/
def decode (c : Config) : Format → Bytes → Except DecodeError Instr
  | .frame, bs => decodeFrame c bs
  | .cmd, bs => decodeCmd c bs
  | .radio, bs => decodeRadio c bs

/-! ## The encoder -/

/-- `EncodeAck(recipient, sender, token)` (41_codec.md R161). -/
def encodeAck (c : Config) (recipient sender : Byte) (token : Half) : Bytes :=
  [0x05, recipient, sender, (tokenBytes c token).1, (tokenBytes c token).2, c.ptAck]

/-- `EncodeMsg(recipient, sender, token, msgType, dataLen, data)` (41_codec.md R162). -/
def encodeMsg (c : Config) (recipient sender : Byte) (token : Half) (msgType dataLen : Byte) (data : Bytes) : Bytes :=
  [BitVec.ofNat 8 (lMsg dataLen.toNat), recipient, sender, (tokenBytes c token).1, (tokenBytes c token).2, c.ptMsg,
    msgType, dataLen] ++ data.take dataLen.toNat

/-- The code `op` of a host command (R100). -/
def opInit : BitVec 3 := 0
def opPoll : BitVec 3 := 1
def opGetMessage : BitVec 3 := 2
def opPostMessage : BitVec 3 := 3
def opGetVersion : BitVec 3 := 4
def opGetPartNumber : BitVec 3 := 5

/-- The code `kind` of a radio-port transaction (R102). -/
def kindReadReg : BitVec 3 := 0
def kindWriteReg : BitVec 3 := 1
def kindReadBurst : BitVec 3 := 2
def kindWriteBurst : BitVec 3 := 3
def kindStrobe : BitVec 3 := 4

/-- A 3-bit code in the first byte of its record (log 7). -/
def codeByte (k : BitVec 3) : Byte := k.setWidth 8

/-- The bytes of an instruction in its format. -/
def encode (c : Config) : Instr → Bytes
  | .frameAck r s t => encodeAck c r s t
  | .frameMsg r s t m data => encodeMsg c r s t m (BitVec.ofNat 8 data.length) data
  | .init a p s => [codeByte opInit, a, p, s.lo, s.hi]
  | .poll => [codeByte opPoll]
  | .getMessage => [codeByte opGetMessage]
  | .postMessage r m n data k => codeByte opPostMessage :: r :: m :: n :: (data ++ leBytes (retryBytes c) k)
  | .getVersion => [codeByte opGetVersion]
  | .getPartNumber => [codeByte opGetPartNumber]
  | .readReg id => [codeByte kindReadReg, id]
  | .writeReg id v => [codeByte kindWriteReg, id, v]
  | .readBurst cmd n => [codeByte kindReadBurst, cmd, BitVec.ofNat 8 n]
  | .writeBurst cmd B => codeByte kindWriteBurst :: cmd :: B
  | .strobe cmd => [codeByte kindStrobe, cmd]

/-! ## The words of opcode_table.json (log 18) -/

/-- How many bytes a command record of the code has. -/
def cmdBytes (c : Config) (op : Nat) : Nat :=
  if op = 0 then 5 else if op = 3 then 4 + dataMax + retryBytes c else 1

/-- Extend a byte string with zero bytes to `n` bytes. -/
def padTo (n : Nat) (bs : Bytes) : Bytes := bs ++ List.replicate (n - bs.length) 0

/-- The format of a table word: the FRAME rows alone have 48 bits and more (R108). -/
def tableFormat (nbits : Nat) : Format := if nbits ≤ 40 then .cmd else .frame

/-- The bytes of a table word. A CMD word has its `op` in bits 2:0 of the first byte. A FRAME word has byte 0 of the
header in its top byte (R108). A MSG row's mask leaves the length byte out, since R94 fixes it by the other fields: where
the word gives it no bits it is the `7 + dataLen` that R92 demands. -/
def tableBytes (c : Config) (nbits w : Nat) : Bytes :=
  match tableFormat nbits with
  | .frame =>
    let F := (leBytes (nbits / 8) w).reverse
    if F.getD 0 0 = 0 ∧ F.getD 5 0 = c.ptMsg then
      let n := lMsg (F.getD 7 0).toNat
      BitVec.ofNat 8 n :: padTo n F.tail
    else padTo ((F.getD 0 0).toNat + 1) F
  | _ => padTo (cmdBytes c (w % 8)) (leBytes ((nbits + 7) / 8) w)

/-- The instruction the decoder reads from a word of opcode_table.json, with the default parameters (R108). -/
def decodeTableWord (nbits w : Nat) : Option Instr :=
  (decode Config.default (tableFormat nbits) (tableBytes Config.default nbits w)).toOption

end Sys2Proof
end

