-- ==== Sys2Proof/Machine/State.lean ====
section
/-! DEFINITION. The state of the block (10_state.md R20 to R52), why a step can stop, and the state after reset (R50). -/

namespace Sys2Proof.Machine

/-- The byte spaces of the block (20_memory.md R60). -/
inductive Space where
  /-- `RX`, the receive buffer. -/
  | rx
  /-- `TX`, the transmit buffer. -/
  | tx
  /-- `ACKB`, the acknowledgment buffer. -/
  | ackb
  /-- `PAGE p`. -/
  | page (p : Nat)
  /-- The POST_MESSAGE data operand. -/
  | opData
  deriving DecidableEq, Repr

/-- A byte space's contents: the bytes that have a value, by rising address. A byte not listed has no value
(R50: "a model may hold them as no value"; log 9). -/
abbrev Memory := List Host.Cell

/-- The canonical form: addresses strictly rising. -/
def Memory.wf : Memory → Bool
  | [] => true
  | [_] => true
  | c :: d :: m => decide (c.1 < d.1) && Memory.wf (d :: m)

/-- Why the machine stops. -/
inductive Fault where
  /-- An index at or above the size of a space (R65: "a fault that is never reached"). Raised by `memRead` and
  `memWrite`. Safe. -/
  | outOfSpace (sp : Space) (addr : Nat)
  /-- A byte that nothing has written since reset (R50). Raised by `memRead`. Safe. -/
  | unwritten (sp : Space) (addr : Nat)
  deriving DecidableEq, Repr

/-- Why a step has no meaning. -/
inductive Refusal where
  /-- An instruction without a meaning yet, raised by an arm of `exec`. Safe. -/
  | notModelled (mnemonic : String)
  /-- What stands at the command port is no command record (R12: `refuse`, the spec gives it no meaning; log 21).
  Raised by `step`. Safe. -/
  | noRecord (why : DecodeError)
  deriving DecidableEq, Repr

/-- `engState` (R30). -/
inductive EngState where
  | idle
  | receiving
  | transmitting
  | awaitingAck
  deriving DecidableEq, Repr

/-- The predicate a Confirm waits for (R137). -/
inductive Awaited where
  /-- `IS_TX_DONE`. -/
  | txDone
  /-- `IS_RX_ARMED`. -/
  | rxArmed
  deriving DecidableEq, Repr

/-- The response codes (60_exceptions.md R261). -/
inductive RspCode where
  | ok
  | cfgAddr
  | cfgPower
  | notInit
  | alreadyInit
  | dataTooLong
  | deliveryFail
  | queueEmpty
  | rxOverflow
  | radioTimeout
  | reservedCmd
  | faulted
  deriving DecidableEq, Repr

/-- The fields of a response beyond `ok` and `code`: those its command defines, and no others (R45, log 12). -/
inductive Payload where
  | nothing
  | message (sender msgType dataLen : Byte) (data : Bytes)
  | value (v : Byte)
  deriving DecidableEq, Repr

/-- A response record (R45). -/
structure Rsp where
  ok : Bool
  code : RspCode
  payload : Payload
  deriving DecidableEq, Repr

/-- The operand a `ConfigError` names (R260). -/
inductive ConfigOperand where
  | address
  | power
  deriving DecidableEq, Repr

/-- The events of R260, with what each records. `RadioHang` records nothing: the block makes no further step (R270). The
causes of refusals stand in the history as the acceptance and the response (log 14). -/
inductive Raised where
  | configError (which : ConfigOperand) (value : Byte)
  | notInit (op : BitVec 3)
  | alreadyInit
  | reservedCmd (op : BitVec 3)
  | faulted (op : BitVec 3)
  | dataTooLong (dataLen : Byte)
  | deliveryFailure (recipient : Byte) (attempts : Nat)
  | rxOverflow (ovf : Bool) (n : Nat)
  | malformedFrame (why : Malformed) (offset : Nat)
  | tokenMismatch (token : Half)
  | queueFull (sender : Byte)
  | queueEmpty
  | radioTimeout (p : Awaited)
  deriving DecidableEq, Repr

/-- One entry of the history `H` (R52). -/
inductive Event where
  | readReg (id b : Byte)
  | writeReg (id b : Byte)
  | readBurst (cmd : Byte) (n : Nat) (B : Bytes)
  | writeBurst (cmd : Byte) (B : Bytes)
  | strobe (cmd : Byte)
  | configure (power : Byte)
  | lineSample (v : Bool)
  | wait (ms : Nat)
  | raised (e : Raised)
  | accepted (op : BitVec 3)
  | response (r : Rsp)
  deriving DecidableEq, Repr

/-- Who called a poll cycle (R211): POLL, or step 4 of POST_MESSAGE. -/
inductive Caller where
  | poll
  | post
  deriving DecidableEq, Repr

/-- The actions a command in progress has still to do: the control position (R30, R195, R196; log 3). -/
inductive Act where
  /-- Issue a radio-port transaction (R47). -/
  | issue (i : Instr)
  /-- `RadioConfigure(power)` (R139). -/
  | configure (power : Byte)
  /-- Begin `Confirm(P)` (R137). -/
  | confirm (p : Awaited)
  /-- Test `P` on the state byte just read (R137). -/
  | test (p : Awaited)
  /-- End GET_VERSION or GET_PARTNUMBER with the byte just read (R142, R143). -/
  | respondValue
  /-- Begin a poll cycle (R211). -/
  | pollCycle (c : Caller)
  /-- Decode the pending-byte count just read (R141, R212). -/
  | rxCount (c : Caller)
  /-- Store the burst just read (R211 step 2). -/
  | storeBurst
  /-- The head of the split loop (R167). -/
  | split
  /-- Move the burst cursor on by the consumed size (R167). -/
  | advance (consumed : Nat)
  /-- Push a page image (R213 step 6). -/
  | enqueue (page : Bytes) (sender : Byte)
  /-- `engState <- RECEIVING` after SendAck's Transmit (R217). -/
  | receiving
  /-- End a poll cycle (R211 step 7, R212). -/
  | endCycle (c : Caller) (overflow : Bool)
  /-- The last line of INIT (R181). -/
  | initDone
  /-- After an attempt's Transmit: steps 3 and 4 of POST_MESSAGE (R182). -/
  | afterTransmit
  /-- `WaitWindow()` (R188). -/
  | wait
  deriving DecidableEq, Repr

/-- The environment's coming answers (R145; log 1, log 4). -/
structure Env where
  /-- The levels the next samples of `rx_ready` find. -/
  line : List Bool
  /-- The bytes the next register reads return. -/
  regs : Bytes
  /-- The bytes the next burst reads return. -/
  fifo : Bytes
  /-- How many more radio-port transactions complete; `none`: all of them. -/
  completions : Option Nat
  deriving DecidableEq, Repr

/-- The state of the block and of its ports. -/
structure State where
  /-- The parameters (R7, R15); no step changes them. -/
  cfg : Config
  env : Env
  /-- The counter the free values are taken at (log 2). -/
  tick : Nat
  /-- The command records the host offers, the first one at the port (R45). -/
  cmdPort : List Bytes
  /-- The reset input (R300). -/
  resetPin : Bool
  /-- The response record last produced (R45, log 12). -/
  rsp : Option Rsp
  /-- The history `H` (R52). -/
  hist : List Event
  /-- The control position (log 3). -/
  todo : List Act
  /-- Read data of the last register read (R47). -/
  rdData : Byte
  /-- Read data of the last burst read (R47). -/
  rdBurst : Bytes
  /-- R21. -/
  deviceAddress : Byte
  /-- R22. -/
  messageSignature : Half
  /-- R23. -/
  outputPower : Byte
  /-- R25. -/
  latch : Latches
  /-- R25, R60. -/
  opData : Memory
  /-- R26. -/
  rxBuf : Memory
  /-- R26. -/
  rxLen : Nat
  /-- R27. -/
  txBuf : Memory
  /-- R27. -/
  txLen : Nat
  /-- R28. -/
  ackBuf : Memory
  /-- R30. -/
  engState : EngState
  /-- R31. -/
  attempt : Nat
  /-- R32. -/
  rxOff : Nat
  /-- R33. -/
  rxRem : Int
  /-- R34. -/
  ackSeen : Bool
  /-- R35. -/
  awaitValid : Bool
  /-- R35. -/
  awaitAddr : Byte
  /-- R36. -/
  busy : Bool
  /-- R37. -/
  fault : Bool
  /-- R37. -/
  spinCount : Nat
  /-- R38. -/
  winTimer : Nat
  /-- R39: byte `i` of page `p` at `40 * p + i`. -/
  pages : Memory
  /-- R40. -/
  occupied : List Bool
  /-- R41. -/
  nextLink : List Nat
  /-- R42. -/
  head : Option Nat
  /-- R42. -/
  tail : Option Nat
  /-- R43. -/
  count : Nat
  deriving DecidableEq, Repr

/-- Latch values at reset: the spec gives none (DESIGN CHOICE, log 10). -/
def Latches.reset : Latches where
  opCode := 0
  opAddr := 0
  opPower := 0
  opSig := 0
  opRecipient := 0
  opMsgType := 0
  opDataLen := 0
  maxRetriesR := 0

/-- The machine right after reset (R50), with the default parameters. -/
def State.reset : State where
  cfg := Config.default
  env := { line := [], regs := [], fifo := [], completions := none }
  tick := 0
  cmdPort := []
  resetPin := false
  rsp := none
  hist := []
  todo := []
  rdData := 0
  rdBurst := []
  deviceAddress := 0x00
  messageSignature := 0x0000
  outputPower := 0x00
  latch := Latches.reset
  opData := []
  rxBuf := []
  rxLen := 0
  txBuf := []
  txLen := 0
  ackBuf := []
  engState := .idle
  attempt := 0
  rxOff := 0
  rxRem := 0
  ackSeen := false
  awaitValid := false
  awaitAddr := 0
  busy := false
  fault := false
  spinCount := 0
  winTimer := 0
  pages := []
  occupied := List.replicate 20 false
  nextLink := List.replicate 20 0
  head := none
  tail := none
  count := 0

end Sys2Proof.Machine
end

