-- ==== Sys2Proof/Machine/Ops.lean ====
section
/-! DEFINITION. The named operations over memory, the history, the command port and the radio port; the codes of states and
responses; the one event that ends a command from inside (RadioTimeout, R271); and reset (R300). -/

namespace Sys2Proof.Machine

/-- The outcome of a step of this machine. -/
abbrev Result := Host.Outcome State Fault Refusal

/-! ## Memory -/

/-- The byte at an address, if it has a value. -/
def Memory.lookup (m : Memory) (a : Nat) : Option Byte :=
  match m with
  | [] => none
  | (k, b) :: m => if k = a then some b else Memory.lookup m a

/-- Write one byte, keeping the canonical form. -/
def Memory.insert (m : Memory) (a : Nat) (v : Byte) : Memory :=
  match m with
  | [] => [(a, v)]
  | (k, b) :: m =>
    if a < k then (a, v) :: (k, b) :: m
    else if a = k then (a, v) :: m
    else (k, b) :: Memory.insert m a v

/-- Write consecutive bytes, the first at `a`. -/
def Memory.store (m : Memory) (a : Nat) : Bytes → Memory
  | [] => m
  | b :: bs => Memory.store (m.insert a b) (a + 1) bs

/-- The size of a space (20_memory.md R60). -/
def Space.size (c : Config) : Space → Nat
  | .rx => c.fifoCap
  | .tx => frameMaxBytes
  | .ackb => headerBytes
  | .page p => if p < queuePages then pageBytes else 0
  | .opData => dataMax

/-- Where byte 0 of a space lies in the memory that holds it: only pages share one. -/
def Space.base : Space → Nat
  | .page p => pageBytes * p
  | _ => 0

/-- The memory that holds a space. -/
def State.memory (s : State) : Space → Memory
  | .rx => s.rxBuf
  | .tx => s.txBuf
  | .ackb => s.ackBuf
  | .page _ => s.pages
  | .opData => s.opData

def State.setMemory (s : State) (sp : Space) (m : Memory) : State :=
  match sp with
  | .rx => { s with rxBuf := m }
  | .tx => { s with txBuf := m }
  | .ackb => { s with ackBuf := m }
  | .page _ => { s with pages := m }
  | .opData => { s with opData := m }

/-- The byte at an address of a space; `none` outside the space and where nothing has been written. -/
def readByte (s : State) (sp : Space) (a : Nat) : Option Byte :=
  if a < sp.size s.cfg then (s.memory sp).lookup (sp.base + a) else none

/-- `MemRead(space, addr, n)` (R10). -/
def memRead (s : State) (sp : Space) (a : Nat) : Nat → Except Fault Bytes
  | 0 => .ok []
  | n + 1 =>
    if a < sp.size s.cfg then
      match (s.memory sp).lookup (sp.base + a) with
      | none => .error (.unwritten sp a)
      | some b =>
        match memRead s sp (a + 1) n with
        | .ok bs => .ok (b :: bs)
        | .error f => .error f
    else .error (.outOfSpace sp a)

/-- `MemWrite(space, addr, n, v)` (R10), with `n` the length of `v`. -/
def memWrite (s : State) (sp : Space) (a : Nat) (bs : Bytes) : Except Fault State :=
  if a + bs.length ≤ sp.size s.cfg then
    .ok (s.setMemory sp ((s.memory sp).store (sp.base + a) bs))
  else .error (.outOfSpace sp (sp.size s.cfg))

/-! ## History and control -/

/-- Append to the history (R52). -/
def State.log (s : State) (e : Event) : State := { s with hist := s.hist ++ [e] }

/-- `raise e` (R12): record the event. Nothing is saved and control goes on with the next statement (R281). -/
def State.raise (s : State) (e : Raised) : State := s.log (.raised e)

/-- Put actions before those still to do. -/
def State.plan (s : State) (acts : List Act) : State := { s with todo := acts ++ s.todo }

/-- `engState <- S` (R10). -/
def State.enter (s : State) (e : EngState) : State := { s with engState := e }

/-! ## The command port -/

/-- Accept a command: `busy <- 1` and the operand latches load; the latches of other commands hold unspecified values
(R25, R36, R45; log 11). -/
def accept (s : State) (l : Latches) (data : Memory) : State :=
  { s with
    busy := true
    rsp := none
    latch := l
    opData := data
    tick := s.tick + 1
    hist := s.hist ++ [.accepted l.opCode] }

/-- Produce the response and end the command: `busy <- 0` (R45). -/
def respond (s : State) (r : Rsp) : State :=
  { s with busy := false, rsp := some r, todo := [], hist := s.hist ++ [.response r] }

/-- End a command with a bare result. -/
def finish (s : State) (ok : Bool) (code : RspCode) : State := respond s ⟨ok, code, .nothing⟩

/-- End a command without its effect where the rule only returns: what the history gains is the response (R180, R244, R272;
log 14). -/
def refuse (s : State) (code : RspCode) : State := finish s false code

/-- End a command that fails where the rule raises the event that says why (R181, R182, R183, R137). -/
def fail (s : State) (e : Raised) (code : RspCode) : State := finish (s.raise e) false code

/-- The `RadioTimeout` abort (R271): `fault <- 1`, the command in progress is abandoned at that point, all other state
stays as it is. It is the one event that ends a command from inside a procedure; nothing returns from it (R282). -/
def abortTimeout (s : State) (p : Awaited) : State :=
  fail { s with fault := true } (.radioTimeout p) .radioTimeout

/-! ## The radio port -/

/-- Whether the radio completes the next transaction (R145; log 4). -/
def radioResponds (s : State) : Bool := s.env.completions ≠ some 0

/-- One transaction has completed (log 4). -/
def countCompletion (s : State) : State :=
  { s with env := { s.env with completions := s.env.completions.map (· - 1) } }

/-- The environment's answer to a register read: any byte (R131, R145; log 1). -/
def answerReg (s : State) : Byte × State :=
  match s.env.regs with
  | b :: bs => (b, { s with env := { s.env with regs := bs } })
  | [] => (Config.freeByte s.tick, { s with tick := s.tick + 1 })

/-- The bytes the environment answers a burst read of `n` with: any `n` bytes (R133, R145; log 1). -/
def burstBytes (fifo : Bytes) (tick : Nat) : Nat → Bytes
  | 0 => []
  | n + 1 =>
    match fifo with
    | b :: bs => b :: burstBytes bs tick n
    | [] => Config.freeByte tick :: burstBytes [] (tick + 1) n

/-- A burst read takes `n` bytes out of the radio's receive FIFO (R66, R133). -/
def answerBurst (s : State) (n : Nat) : Bytes × State :=
  (burstBytes s.env.fifo s.tick n,
    { s with env := { s.env with fifo := s.env.fifo.drop n }, tick := s.tick + n })

/-- `RxReadyLine()`: one sample of `rx_ready` (R49, R136; log 1). -/
def sampleLine (s : State) : Bool × State :=
  match s.env.line with
  | v :: vs => (v, { s with env := { s.env with line := vs }, hist := s.hist ++ [.lineSample v] })
  | [] =>
    let v := Config.freeLevel s.tick
    (v, { s with tick := s.tick + 1, hist := s.hist ++ [.lineSample v] })

/-! ## Codes -/

/-- `engState[1:0]` (R30). -/
def EngState.code : EngState → BitVec 2
  | .idle => 0
  | .receiving => 1
  | .transmitting => 2
  | .awaitingAck => 3

/-- `code[3:0]` of a response (R261). -/
def RspCode.code : RspCode → BitVec 4
  | .ok => 0
  | .cfgAddr => 1
  | .cfgPower => 2
  | .notInit => 3
  | .alreadyInit => 4
  | .dataTooLong => 5
  | .deliveryFail => 6
  | .queueEmpty => 7
  | .rxOverflow => 8
  | .radioTimeout => 9
  | .reservedCmd => 10
  | .faulted => 11

/-- The null page index (R42). -/
def nullPage : Nat := 31

/-- `head` and `tail` as 5-bit registers (R42). -/
def pageIndexBits (p : Option Nat) : BitVec 5 := BitVec.ofNat 5 (p.getD nullPage)

/-! ## Reset -/

/-- Reset asserted (R300): every piece of the block's state takes its reset value, a command in progress is abandoned
without a response, no transaction happens (R301). The parameters, the environment and what the host offers are not the
block's (log 13). -/
def assertReset (s : State) : State :=
  { State.reset with
    cfg := s.cfg
    env := s.env
    tick := s.tick
    cmdPort := s.cmdPort
    resetPin := s.resetPin }

end Sys2Proof.Machine
end

