-- ==== Sys2Proof/Machine/Operands.lean ====
section
/-! DEFINITION. Operands: how each command's record loads the latches (R25, R45, R101), and the byte strings the rules build
from operands and registers (R161, R162, R240). -/

namespace Sys2Proof.Machine

/-- The latches after an acceptance: the code, and nothing known of the rest (R25; log 11). -/
def latchCode (s : State) (op : BitVec 3) : Latches := { Config.freeLatches s.tick with opCode := op }

/-- Acceptance of a command without operands, or of a reserved code (R273). -/
def acceptBare (s : State) (op : BitVec 3) : State := accept s (latchCode s op) []

/-- Acceptance of INIT (R101). -/
def acceptInit (s : State) (addr power : Byte) (signature : Half) : State :=
  accept s { latchCode s opInit with opAddr := addr, opPower := power, opSig := signature } []

/-- Acceptance of POST_MESSAGE (R101): all 32 bytes of `data` are latched. -/
def acceptPost (s : State) (recipient msgType dataLen : Byte) (data : Bytes) (maxRetries : Nat) : State :=
  accept s
    { latchCode s opPostMessage with
      opRecipient := recipient, opMsgType := msgType, opDataLen := dataLen, maxRetriesR := maxRetries }
    (Memory.store [] 0 (data.take dataMax))

/-- The MSG frame of the POST_MESSAGE in progress, its data bytes read from the latch (R184). -/
def postFrame (s : State) (data : Bytes) : Bytes :=
  encodeMsg s.cfg s.latch.opRecipient s.deviceAddress s.messageSignature s.latch.opMsgType s.latch.opDataLen data

/-- The ACK frame for a sender (R217). -/
def ackFrame (s : State) (dest : Byte) : Bytes := encodeAck s.cfg dest s.deviceAddress s.messageSignature

/-- `PageImage` built from the decoded frame (R240): the serialized frame, then zero filler up to 40 bytes. -/
def pageImage (c : Config) (recipient sender : Byte) (token : Half) (msgType : Byte) (data : Bytes) : Bytes :=
  let F := encodeMsg c recipient sender token msgType (BitVec.ofNat 8 data.length) data
  F ++ List.replicate (pageBytes - F.length) 0

end Sys2Proof.Machine
end

