-- ==== Sys2Proof/Machine/Flags.lean ====
section
/-! DEFINITION. The tests and flags: gating of commands (R180), the signature filter, the matched-ACK test and Classify
(R214 to R219), the awaited radio states (R137), the events of R260 that a history shows, and the status outputs (R46). -/

namespace Sys2Proof.Machine

/-- The gating of R180 for INIT: the code of the refusal, or none. `fault` is tested first (R280). -/
def gateInit (s : State) : Option RspCode :=
  if s.fault then some .faulted
  else if s.engState ≠ .idle then some .alreadyInit
  else none

/-- The gating of R180 for POLL and POST_MESSAGE. -/
def gateRunning (s : State) : Option RspCode :=
  if s.fault then some .faulted
  else if s.engState = .idle then some .notInit
  else none

/-- The gating of R180 for GET_MESSAGE, GET_VERSION and GET_PARTNUMBER. -/
def gateAny (s : State) : Option RspCode := if s.fault then some .faulted else none

/-- The gating of R180 for a reserved code (R273). -/
def gateReserved (s : State) : RspCode := if s.fault then .faulted else .reservedCmd

/-- The operand checks of INIT, the address before the power (R181, R280). -/
def initOperandError (s : State) (addr power : Byte) : Option (Raised × RspCode) :=
  if addr < addrMin ∨ addrMax < addr then some (.configError .address addr, .cfgAddr)
  else if s.cfg.powerValid power then none
  else some (.configError .power power, .cfgPower)

/-- `P(s)` of Confirm on a state byte (R137). -/
def awaitedState (s : State) (p : Awaited) (b : Byte) : Bool :=
  match p with
  | .txDone => s.cfg.radio.isTxDone.contains b
  | .rxArmed => s.cfg.radio.isRxArmed.contains b

/-- The matched-ACK test for an ACK frame (R215). -/
def matchedAck (s : State) (recipient sender : Byte) : Bool :=
  recipient == s.deviceAddress && s.awaitValid && sender == s.awaitAddr

/-- The verdicts of R219. -/
structure Verdict where
  setAck : Bool
  reply : Option Byte
  enqueue : Bool
  deriving DecidableEq, Repr

/-- `Classify(f)` (R219) for a frame of type MSG (`isMsg`) or ACK. -/
def classify (s : State) (isMsg : Bool) (recipient sender : Byte) (token : Half) : Verdict :=
  if token ≠ s.messageSignature then ⟨false, none, false⟩
  else if !isMsg && matchedAck s recipient sender then ⟨true, none, false⟩
  else
    ⟨false, if recipient ≠ broadcastAddr ∧ (isMsg || s.cfg.replyToUnmatchedAck) = true then some sender else none, isMsg⟩

/-- The overflow test of R212. -/
def countOverflows (s : State) (ovf : Bool) (n : Nat) : Bool := ovf || decide (s.cfg.fifoCap < n)

/-! ## The events of R260 -/

/-- The event of R260 that a response's code stands for, where the rule that detects it only returns: the command is
refused, or the queue is empty. `op` is the code of the command (R260's "records"; log 14). -/
def refusalEvent (op : BitVec 3) : RspCode → Option Raised
  | .notInit => some (.notInit op)
  | .alreadyInit => some .alreadyInit
  | .reservedCmd => some (.reservedCmd op)
  | .faulted => some (.faulted op)
  | .queueEmpty => some .queueEmpty
  | .ok | .cfgAddr | .cfgPower | .dataTooLong | .deliveryFail | .rxOverflow | .radioTimeout => none

/-- The events of R260 that a history shows, oldest first: the ones raised, and the causes of refusals, which the acceptance
(with the `op`) and the response record. `op` is the command in progress where the history begins. -/
def eventsFrom (op : BitVec 3) : List Event → List Raised
  | [] => []
  | .accepted op :: h => eventsFrom op h
  | .raised e :: h => e :: eventsFrom op h
  | .response r :: h => (refusalEvent op r.code).toList ++ eventsFrom op h
  | _ :: h => eventsFrom op h

/-- The events of R260 that the history of a state shows. -/
def State.eventsShown (s : State) : List Raised := eventsFrom 0 s.hist

/-! ## Status outputs (R46) -/

/-- `q_empty`, PDSF's `isEmpty()` (R243). -/
def State.qEmpty (s : State) : Bool := s.count == 0

/-- `q_full` (R46, R247). -/
def State.qFull (s : State) : Bool := s.count == 20

/-- `q_count` (R46). -/
def State.qCount (s : State) : BitVec 5 := BitVec.ofNat 5 s.count

/-- `eng_state` (R46). -/
def State.engStateOut (s : State) : BitVec 2 := s.engState.code

/-- `busy` (R46). -/
def State.busyOut (s : State) : Bool := s.busy

/-- `fault`, an output where the register exists, so with a finite `SPIN_LIMIT` (R37, R46). -/
def State.faultOut (s : State) : Option Bool := if s.cfg.spinLimit.isSome then some s.fault else none

/-- `cmd_ready = not busy` (R45). -/
def State.cmdReady (s : State) : Bool := !s.busy

/-- `cmd_valid`: the host offers a record (R45). -/
def State.cmdValid (s : State) : Bool := !s.cmdPort.isEmpty

end Sys2Proof.Machine
end

