-- ==== Sys2Proof/Machine/Radio.lean ====
section
/-! DEFINITION. The radio port (40_radio_port.md): the five transaction kinds, the procedures built on them as actions still to
do, and the commands GET_VERSION and GET_PARTNUMBER. -/

namespace Sys2Proof.Machine

/-! ## The five transaction kinds -/

/-- READ_REG (R131). -/
def execReadReg (id : Byte) (s : State) : Result :=
  let b := (answerReg s).1
  .next ({ (answerReg s).2 with rdData := b }.log (.readReg id b))

/-- WRITE_REG (R132): the block itself is unchanged. -/
def execWriteReg (id value : Byte) (s : State) : Result := .next (s.log (.writeReg id value))

/-- READ_BURST (R133). -/
def execReadBurst (cmd : Byte) (len : Nat) (s : State) : Result :=
  let B := (answerBurst s len).1
  .next ({ (answerBurst s len).2 with rdBurst := B }.log (.readBurst cmd len B))

/-- WRITE_BURST (R134): the block itself is unchanged. -/
def execWriteBurst (cmd : Byte) (bytes : Bytes) (s : State) : Result := .next (s.log (.writeBurst cmd bytes))

/-- STROBE (R135): the block itself is unchanged. -/
def execStrobe (cmd : Byte) (s : State) : Result := .next (s.log (.strobe cmd))

/-! ## Procedures, as the actions they consist of -/

/-- `ArmReceive()` (R144). -/
def armReceive (c : Config) : List Act := [.issue (.strobe c.radio.strobeRx), .confirm .rxArmed]

/-- `FlushRearm()` (R140). -/
def flushRearm (c : Config) : List Act := .issue (.strobe c.radio.strobeFlushRx) :: armReceive c

/-- `Transmit(B)` (R138) after its first line. -/
def transmitActs (c : Config) (B : Bytes) : List Act :=
  [.issue (.writeBurst c.radio.cmdTxfifo B), .issue (.strobe c.radio.strobeTx), .confirm .txDone] ++ armReceive c

/-- `Transmit(B)` (R138): `engState <- TRANSMITTING`, then the transactions. -/
def transmit (s : State) (B : Bytes) : State := (s.enter .transmitting).plan (transmitActs s.cfg B)

/-- One more read of the state register, and its test (R137). -/
def spinRead (s : State) (p : Awaited) : State := s.plan [.issue (.readReg s.cfg.radio.regMarcstate), .test p]

/-- The start of `Confirm(P)` (R137): `spinCount` exists only with a finite `SPIN_LIMIT` (log 26). -/
def beginConfirm (s : State) (p : Awaited) : State :=
  spinRead (if s.cfg.spinLimit.isSome then { s with spinCount := 0 } else s) p

/-- A state byte that does not satisfy `P` (R137): read again, or time out at the limit (R271). -/
def spinAgain (s : State) (p : Awaited) : State :=
  match s.cfg.spinLimit with
  | none => spinRead s p
  | some n =>
    let s := { s with spinCount := s.spinCount + 1 }
    if s.spinCount = n then abortTimeout s p else spinRead s p

/-- The test of `Confirm(P)` on the byte just read (R137): the predicate before the count (R280). -/
def testState (s : State) (p : Awaited) : State := if awaitedState s p s.rdData then s else spinAgain s p

/-- `RadioConfigure(power)` (R139): one event. -/
def radioConfigure (s : State) (power : Byte) : State := s.log (.configure power)

/-! ## Diagnostic commands -/

/-- GET_VERSION and GET_PARTNUMBER up to their register read (R142, R143). -/
def beginDiagnostic (s : State) (op : BitVec 3) (id : Byte) : State :=
  let s := acceptBare s op
  match gateAny s with
  | some code => refuse s code
  | none => { s with todo := [.issue (.readReg id), .respondValue] }

/-- The response with the byte just read (R142, R143). -/
def respondValue (s : State) : State := respond s ⟨true, .ok, .value s.rdData⟩

/-- GET_VERSION (R142). -/
def execGetVersion (s : State) : Result := .next (beginDiagnostic s opGetVersion s.cfg.radio.regVersion)

/-- GET_PARTNUMBER (R143). -/
def execGetPartNumber (s : State) : Result := .next (beginDiagnostic s opGetPartNumber s.cfg.radio.regPartnum)

end Sys2Proof.Machine
end

