-- ==== Sys2Proof/Machine/Codec.lean ====
section
/-! DEFINITION. Received frames (41_codec.md, 43_reception.md): DecodeOne on the burst in `rxBuf`, and the meaning of the two
frame rows, which is ProcessFrame (log 24). -/

namespace Sys2Proof.Machine

/-- What DecodeOne finds (R164). -/
inductive Found where
  | frame (i : Instr)
  | malformed (why : Malformed)
  deriving DecidableEq, Repr

/-- `DecodeOne(o, rem)` (R164, R165): the result and the consumed size `L + 3`. The first check that fails wins. -/
def decodeOne (s : State) (o : Nat) (rem : Int) : Except Fault (Found × Nat) :=
  match memRead s .rx o 1 with
  | .error f => .error f
  | .ok bs =>
    let L := (bs.getD 0 0).toNat
    if L < 5 then .ok (.malformed .shortHeader, L + 3)
    else if rem < (L : Int) + 3 then .ok (.malformed .truncated, L + 3)
    else
      match memRead s .rx o (L + 1) with
      | .error f => .error f
      | .ok F =>
        match parseFrame s.cfg F with
        | .ok i => .ok (.frame i, L + 3)
        | .error w => .ok (.malformed w, L + 3)

/-- `SendAck(dest)` (R217) up to the transmit's transactions, with the actions that follow it. -/
def sendAck (s : State) (dest : Byte) (andThen : List Act) : Result :=
  match memWrite s .ackb 0 (ackFrame s dest) with
  | .error f => .fault f
  | .ok s =>
    match memRead s .ackb 0 headerBytes with
    | .error f => .fault f
    | .ok B => .next (transmit (s.plan (.receiving :: andThen)) B)

/-- `ProcessFrame(f, o)` (R213), by the verdicts of Classify (R219): note the ACK, send an ACK, push, in that order. `page`
is the frame's page image, used for a MSG frame only. -/
def processFrame (s : State) (isMsg : Bool) (recipient sender : Byte) (token : Half) (page : Bytes) : Result :=
  if token ≠ s.messageSignature then .next (s.raise (.tokenMismatch token))
  else
    let v := classify s isMsg recipient sender token
    let s := if v.setAck then { s with ackSeen := true } else s
    let pushes : List Act := if v.enqueue then [.enqueue page sender] else []
    match v.reply with
    | some dest => sendAck s dest pushes
    | none => .next (s.plan pushes)

/-- FRAME.ACK received (R213, R215, R216). -/
def execFrameAck (recipient sender : Byte) (token : Half) (s : State) : Result :=
  processFrame s false recipient sender token []

/-- FRAME.MSG received (R213, R216, R218, R240). -/
def execFrameMsg (recipient sender : Byte) (token : Half) (msgType : Byte) (data : Bytes) (s : State) : Result :=
  processFrame s true recipient sender token (pageImage s.cfg recipient sender token msgType data)

/-- `rxOff <- rxOff + c`, `rxRem <- rxRem - c` (R167). -/
def advanceCursor (s : State) (c : Nat) : State := { s with rxOff := s.rxOff + c, rxRem := s.rxRem - c }

end Sys2Proof.Machine
end

