-- ==== Sys2Proof/Machine/Queue.lean ====
section
/-! DEFINITION. The Inbound Queue (44_inbound_queue.md): Push, Pull, and the command GET_MESSAGE. -/

namespace Sys2Proof.Machine

/-- The free page of least index (R246). -/
def freePage (s : State) : Option Nat := s.occupied.findIdx? (· == false)

/-- Mark page `p` occupied and link it at the ring tail (R241). -/
def linkPage (s : State) (p : Nat) : State :=
  let occupied := s.occupied.set p true
  if s.count = 0 then
    { s with occupied := occupied, nextLink := s.nextLink.set p p, head := some p, tail := some p, count := s.count + 1 }
  else
    { s with
      occupied := occupied
      nextLink := (s.nextLink.set p (s.head.getD nullPage)).set (s.tail.getD nullPage) p
      tail := some p
      count := s.count + 1 }

/-- `Push(P)` (R241): false and no mutation when no page is free. -/
def push (s : State) (P : Bytes) : Except Fault (Bool × State) :=
  if s.count = queuePages then .ok (false, s)
  else
    match freePage s with
    | none => .ok (false, s)
    | some p =>
      match memWrite s (.page p) 0 P with
      | .error f => .error f
      | .ok s' => .ok (true, linkPage s' p)

/-- Mark page `p`, the head, free and unlink it (R242). -/
def unlinkPage (s : State) (p : Nat) : State :=
  let occupied := s.occupied.set p false
  if s.head = s.tail then
    { s with occupied := occupied, head := none, tail := none, count := s.count - 1 }
  else
    let h := s.nextLink.getD p nullPage
    { s with
      occupied := occupied
      nextLink := s.nextLink.set (s.tail.getD nullPage) h
      head := some h
      count := s.count - 1 }

/-- `Pull()` (R242): nothing and no mutation when the queue is empty. -/
def pull (s : State) : Except Fault (Option Bytes × State) :=
  if s.count = 0 then .ok (none, s)
  else
    let p := s.head.getD nullPage
    match memRead s (.page p) 0 pageBytes with
    | .error f => .error f
    | .ok P => .ok (some P, unlinkPage s p)

/-- The response of GET_MESSAGE to a pulled page (R244). -/
def messageOf (P : Bytes) : Payload :=
  let n := P.getD 7 0
  .message (P.getD 2 0) (P.getD 6 0) n ((P.drop 8).take n.toNat ++ List.replicate (dataMax - n.toNat) 0)

/-- GET_MESSAGE (R244). -/
def execGetMessage (s : State) : Result :=
  let s := acceptBare s opGetMessage
  match gateAny s with
  | some code => .next (refuse s code)
  | none =>
    match pull s with
    | .error f => .fault f
    | .ok (none, s) => .next (refuse s .queueEmpty)
    | .ok (some P, s) => .next (respond s ⟨true, .ok, messageOf P⟩)

end Sys2Proof.Machine
end

