-- ==== Sys2Proof/Machine/Engine.lean ====
section
/-! DEFINITION. The Reliable Delivery Engine (42_delivery_engine.md, 43_reception.md): INIT, POST_MESSAGE, POLL, the poll
cycle, and the refusal of reserved codes. -/

namespace Sys2Proof.Machine

/-! ## INIT -/

/-- INIT (R181) up to `RadioConfigure`; the actions left are its last lines. -/
def execInit (addr power : Byte) (signature : Half) (s : State) : Result :=
  let s := acceptInit s addr power signature
  match gateInit s with
  | some code => .next (refuse s code)
  | none =>
    match initOperandError s addr power with
    | some (e, code) => .next (fail s e code)
    | none =>
      .next { s with
        deviceAddress := addr
        outputPower := power
        messageSignature := signature
        todo := .configure power :: armReceive s.cfg ++ [.initDone] }

/-- The last lines of INIT (R181). -/
def initDone (s : State) : State := finish (s.enter .receiving) true .ok

/-! ## POST_MESSAGE -/

/-- Step 2, one attempt (R185): Transmit the bytes of `txBuf`, then steps 3 and 4. -/
def startAttempt (s : State) : Result :=
  match memRead s .tx 0 s.txLen with
  | .error f => .fault f
  | .ok B => .next (transmit { s with todo := [.afterTransmit] } B)

/-- Step 1 (R184) and the writes before the attempt loop (R182): build the frame from the latched operands, once. -/
def buildFrame (s : State) : Except Fault State :=
  match memRead s .opData 0 s.latch.opDataLen.toNat with
  | .error f => .error f
  | .ok data =>
    match memWrite s .tx 0 (postFrame s data) with
    | .error f => .error f
    | .ok s =>
      .ok { s with
        txLen := 8 + s.latch.opDataLen.toNat
        ackSeen := false
        attempt := 0
        awaitAddr := s.latch.opRecipient
        awaitValid := s.latch.opRecipient ≠ broadcastAddr }

/-- POST_MESSAGE (R182, R183): the checks, step 1, and the start of the first attempt. -/
def execPostMessage (recipient msgType dataLen : Byte) (data : Bytes) (maxRetries : Nat) (s : State) : Result :=
  let s := acceptPost s recipient msgType dataLen data maxRetries
  match gateRunning s with
  | some code => .next (refuse s code)
  | none =>
    if dataMax < dataLen.toNat then .next (fail s (.dataTooLong dataLen) .dataTooLong)
    else
      match buildFrame s with
      | .error f => .fault f
      | .ok s => startAttempt s

/-- Steps 3 and 4 after the attempt's Transmit (R186, R187): broadcast succeeds at once, unicast waits for an ACK. -/
def afterTransmit (s : State) : State :=
  if s.latch.opRecipient = broadcastAddr then finish (s.enter .receiving) true .ok
  else (s.enter .awaitingAck).plan [.wait, .pollCycle .post]

/-- `WaitWindow()` (R188): loaded and run to zero in one step that is always enabled (R13; log 16). -/
def waitWindow (s : State) : State := { s with winTimer := 0 }.log (.wait ackWindowMs)

/-- The end of one pass of the attempt loop (R182, R187): the ACK test, then step 5. -/
def ackTest (s : State) : Result :=
  if s.ackSeen then .next (finish { s with ackSeen := false, awaitValid := false } true .ok)
  else
    let s := { s with attempt := s.attempt + 1 }
    if s.latch.maxRetriesR < s.attempt then
      .next (fail { s with awaitValid := false } (.deliveryFailure s.latch.opRecipient s.attempt) .deliveryFail)
    else startAttempt s

/-! ## The poll cycle -/

/-- Step 7 and the result of a poll cycle (R211, R212): POLL answers it, POST_MESSAGE ignores it (R187). -/
def endCycle (s : State) (c : Caller) (overflow : Bool) : Result :=
  let s := s.enter .receiving
  match c with
  | .poll =>
    if overflow then .next (finish s false .rxOverflow) else .next (finish s (!s.qEmpty) .ok)
  | .post => ackTest s

/-- Step 1 of `PollCycle()` (R211): one sample of the line gates everything. -/
def pollCycle (s : State) (c : Caller) : Result :=
  let v := (sampleLine s).1
  let s := (sampleLine s).2
  if v then .next (s.plan [.issue (.readReg s.cfg.radio.regRxbytes), .rxCount c]) else endCycle s c false

/-- The count check and the choice of step 1 and step 2 (R141, R211, R212). -/
def rxCount (s : State) (c : Caller) : State :=
  let (ovf, n) := s.cfg.rxCountDecode s.rdData
  if countOverflows s ovf n then
    (s.raise (.rxOverflow ovf n)).plan (flushRearm s.cfg ++ [.endCycle c true])
  else if n = 0 then { s with rxLen := 0, rxOff := 0, rxRem := 0 }.plan [.endCycle c false]
  else s.plan [.issue (.readBurst s.cfg.radio.cmdRxfifo n), .storeBurst, .split, .endCycle c false]

/-- Step 2 (R211): the burst into `rxBuf`, and the cursor at its start (R167). -/
def storeBurst (s : State) : Result :=
  match memWrite s .rx 0 s.rdBurst with
  | .error f => .fault f
  | .ok s' => .next { s' with rxLen := s.rdBurst.length, rxOff := 0, rxRem := s.rdBurst.length }

/-- Step 6 (R213, R218): push, and drop the frame if the queue is full. -/
def enqueue (s : State) (page : Bytes) (sender : Byte) : Result :=
  match push s page with
  | .error f => .fault f
  | .ok (true, s) => .next s
  | .ok (false, s) => .next (s.raise (.queueFull sender))

/-- POLL (R210): gating, then the poll cycle. -/
def execPoll (s : State) : Result :=
  let s := acceptBare s opPoll
  match gateRunning s with
  | some code => .next (refuse s code)
  | none => pollCycle s .poll

/-! ## Reserved codes -/

/-- A record with `op` 6 or 7 (R273): accepted by the handshake and refused. -/
def refuseReserved (s : State) (op : BitVec 3) : State :=
  let s := acceptBare s op
  refuse s (gateReserved s)

end Sys2Proof.Machine
end

