-- ==== Sys2Proof/Machine/Dispatch.lean ====
section
/-! DEFINITION. One arm for each instruction, each a call of its meaning. -/

namespace Sys2Proof.Machine

def exec (i : Instr) (s : State) : Host.Outcome State Fault Refusal :=
  match i with
  | .frameAck recipient sender token => Sys2Proof.Machine.execFrameAck recipient sender token s
  | .frameMsg recipient sender token msgType data => Sys2Proof.Machine.execFrameMsg recipient sender token msgType data s
  | .init addr power signature => Sys2Proof.Machine.execInit addr power signature s
  | .poll => Sys2Proof.Machine.execPoll s
  | .getMessage => Sys2Proof.Machine.execGetMessage s
  | .postMessage recipient msgType dataLen data maxRetries => Sys2Proof.Machine.execPostMessage recipient msgType dataLen data maxRetries s
  | .getVersion => Sys2Proof.Machine.execGetVersion s
  | .getPartNumber => Sys2Proof.Machine.execGetPartNumber s
  | .readReg id => Sys2Proof.Machine.execReadReg id s
  | .writeReg id value => Sys2Proof.Machine.execWriteReg id value s
  | .readBurst cmd len => Sys2Proof.Machine.execReadBurst cmd len s
  | .writeBurst cmd bytes => Sys2Proof.Machine.execWriteBurst cmd bytes s
  | .strobe cmd => Sys2Proof.Machine.execStrobe cmd s

end Sys2Proof.Machine
end

