-- ==== Sys2Proof/Machine/Sequencer.lean ====
section
/-! DEFINITION. What a step performs: the next action of the command in progress, or the acceptance of the record at the
command port. Instructions are fetched here: transactions from the actions still to do, frames from the burst in `rxBuf`,
commands from the command port (log 3, log 18). -/

namespace Sys2Proof.Machine

/-- Whether an action is a radio-port transaction, which the radio may leave uncompleted (R47, R130, R139; log 4). -/
def Act.isTransaction : Act → Bool
  | .issue _ => true
  | .configure _ => true
  | _ => false

/-- The head of the split loop (R167): decode the frame at the cursor and run it, then move the cursor and go on. -/
def splitStep (s : State) : Result :=
  if s.rxRem ≤ 0 then .next s
  else
    match decodeOne s s.rxOff s.rxRem with
    | .error f => .fault f
    | .ok (.malformed w, c) => .next ((s.raise (.malformedFrame w s.rxOff)).plan [.advance c, .split])
    | .ok (.frame i, c) => exec i (s.plan [.advance c, .split])

/-- Perform an action; `s` has the actions after it still to do. -/
def perform (a : Act) (s : State) : Result :=
  match a with
  | .issue i => exec i (countCompletion s)
  | .configure power => .next (radioConfigure (countCompletion s) power)
  | .confirm p => .next (beginConfirm s p)
  | .test p => .next (testState s p)
  | .respondValue => .next (respondValue s)
  | .pollCycle c => pollCycle s c
  | .rxCount c => .next (rxCount s c)
  | .storeBurst => storeBurst s
  | .split => splitStep s
  | .advance c => .next (advanceCursor s c)
  | .enqueue page sender => enqueue s page sender
  | .receiving => .next (s.enter .receiving)
  | .endCycle c overflow => endCycle s c overflow
  | .initDone => .next (initDone s)
  | .afterTransmit => .next (afterTransmit s)
  | .wait => .next (waitWindow s)

/-- Go on with the command in progress. A transaction that the radio does not complete leaves the block where it is, for
ever: the hang of R270 (log 4). -/
def goOn (a : Act) (rest : List Act) (s : State) : Result :=
  if a.isTransaction && !radioResponds s then .next s else perform a { s with todo := rest }

/-- Accept the record at the port (R45), take it off the port, and run it. -/
def acceptRecord (record : Bytes) (others : List Bytes) (s : State) : Result :=
  match decodeCmd s.cfg record with
  | .ok i => exec i { s with cmdPort := others }
  | .error (.reservedOp op) => .next (refuseReserved { s with cmdPort := others } op)
  | .error e => .refused (.noRecord e)

/-- Between commands (R36, R45, R289): nothing happens until the host offers a record and `cmd_ready = 1`. -/
def idleStep (s : State) : Result :=
  if s.busy then .next s
  else
    match s.cmdPort with
    | [] => .next s
    | record :: others => acceptRecord record others s

/-- The state whose next step runs the given CMD record. -/
def offerRecord (s : State) (record : Bytes) : State :=
  { s with resetPin := false, busy := false, todo := [], cmdPort := [record] }

/-- The state in which a burst of `F` and a trailer has just been read, so that the next step runs frame `F` (R68). -/
def presentFrame (s : State) (F : Bytes) : State :=
  { s with
    resetPin := false
    busy := true
    rxBuf := Memory.store [] 0 (F ++ [0, 0])
    rxLen := F.length + 2
    rxOff := 0
    rxRem := (F.length + 2 : Nat)
    todo := [.split, .endCycle .poll false] }

end Sys2Proof.Machine
end

