-- ==== Sys2Proof/Machine/Step.lean ====
section
/-! DEFINITION. One step of the block, and the placing of an instruction where the next step fetches it. -/

namespace Sys2Proof.Machine

/-- One step. The reset input comes first (R300); then the command in progress goes on (R190); else the command port. -/
def step (s : State) : Host.Outcome State Fault Refusal :=
  if s.resetPin then .next (assertReset s)
  else
    match s.todo with
    | a :: rest => goOn a rest s
    | [] => idleStep s

/-- `s` with the instruction of a table word where `step` fetches its next instruction (log 18). -/
def State.withFetchWord (s : State) (nbits w : Nat) : State :=
  match tableFormat nbits with
  | .frame => presentFrame s (tableBytes s.cfg nbits w)
  | _ => offerRecord s (tableBytes s.cfg nbits w)

end Sys2Proof.Machine
end

