-- ==== Sys2Proof/Safety.lean ====
section
/-! DEFINITION. What a safe state is: the invariants the spec states of the block (10_state.md R30, R33 to R37, R44; 20_memory.md
R65; 42_delivery_engine.md R195), the abstract queue `Q` (R44), and the premises and measures that claims use. -/

namespace Sys2Proof.Machine

/-! ## Memory -/

/-- The number of bytes of the memory that holds a space. -/
def Space.extent (c : Config) : Space → Nat
  | .page _ => pageBytes * queuePages
  | sp => sp.size c

/-- Every memory is in canonical form and inside its bounds (R60, R65). -/
def MemoryOk (s : State) : Prop :=
  ∀ sp, (s.memory sp).wf = true ∧ ∀ cell ∈ s.memory sp, cell.1 < sp.extent s.cfg

/-- The received bytes and the bytes of the frame being sent have values (R26, R27). -/
def BuffersOk (s : State) : Prop :=
  (s.rxLen ≤ s.cfg.fifoCap ∧ ∀ a < s.rxLen, (readByte s .rx a).isSome) ∧
    (s.txLen ≤ frameMaxBytes ∧ ∀ a < s.txLen, (readByte s .tx a).isSome)

/-- The burst cursor (R33): `rxOff + rxRem = rxLen`. -/
def CursorOk (s : State) : Prop := (s.rxOff : Int) + s.rxRem = s.rxLen

/-! ## The queue -/

/-- The bytes of a page. -/
def pageOf (s : State) (p : Nat) : Bytes :=
  match memRead s (.page p) 0 pageBytes with
  | .ok P => P
  | .error _ => []

/-- The first `n` pages met from `p` along the links (R44). -/
def walkFrom (s : State) : Nat → Nat → List Nat
  | 0, _ => []
  | n + 1, p => p :: walkFrom s n (s.nextLink.getD p nullPage)

/-- The abstract queue `Q` (R44(d)): the page contents met on the walk from `head`, oldest first. -/
def queueContents (s : State) : List Bytes := (walkFrom s s.count (s.head.getD nullPage)).map (pageOf s)

/-- The occupied pages form a ring, oldest first `ring` (R44). -/
structure Ring (s : State) (ring : List Nat) : Prop where
  flags : s.occupied.length = queuePages
  links : s.nextLink.length = queuePages
  nodup : ring.Nodup
  occupied : ∀ p < queuePages, s.occupied.getD p false = true ↔ p ∈ ring
  below : ∀ p ∈ ring, p < queuePages
  count : s.count = ring.length
  head : s.head = ring.head?
  tail : s.tail = ring.getLast?
  next : ∀ k, (h : k < ring.length) →
    s.nextLink.getD ring[k] nullPage = ring[(k + 1) % ring.length]'(Nat.mod_lt _ (by omega))
  full : ∀ p ∈ ring, ∃ P, memRead s (.page p) 0 pageBytes = .ok P ∧ (P.getD 7 0).toNat ≤ dataMax

/-- The queue invariants of R44. -/
def QueueOk (s : State) : Prop := ∃ ring, Ring s ring

/-! ## Control -/

/-- The actions that end a command or pass it on to the next phase: one of them comes last, and only there. -/
def Act.isLast : Act → Bool
  | .respondValue | .pollCycle _ | .rxCount _ | .endCycle _ _ | .initDone | .afterTransmit => true
  | _ => false

/-- Whether the action belongs to INIT's radio sequence (R181). -/
def Act.ofArming : Act → Bool
  | .configure _ | .issue _ | .confirm _ | .test _ => true
  | _ => false

/-- Whether the action, as the last one, belongs to POST_MESSAGE (R182). -/
def Act.ofPost : Act → Bool
  | .pollCycle .post | .rxCount .post | .endCycle .post _ | .afterTransmit => true
  | _ => false

/-- What the actions still to do carry is what the rules let the block issue and store (R131 to R135, R240). -/
def Act.ok (c : Config) : Act → Prop
  | .issue i => i.format = .radio ∧ i.wf c = true
  | .enqueue page _ => page.length = pageBytes ∧ (page.getD 7 0).toNat ≤ dataMax
  | _ => True

/-- `busy` tells whether a command is in progress (R36), a fault ends it (R271), and the control position has the shape
the rules give it; `engState` is IDLE before INIT has ended and never after (R30, R195), and between commands it is IDLE or
RECEIVING unless the block is faulted. -/
structure ControlOk (s : State) : Prop where
  busy : s.busy = !s.todo.isEmpty
  faultEnds : s.fault = true → s.todo = []
  acts : ∀ a ∈ s.todo, a.ok s.cfg
  lastOnly : ∀ a ∈ s.todo.dropLast, a.isLast = false
  phase : match s.todo.getLast? with
    | none => s.fault = true ∨ s.engState = .idle ∨ s.engState = .receiving
    | some .respondValue =>
      (s.engState = .idle ∨ s.engState = .receiving) ∧ ∀ a ∈ s.todo.dropLast, ∃ i, a = .issue i
    | some .initDone => s.engState = .idle ∧ ∀ a ∈ s.todo.dropLast, a.ofArming = true
    | some .afterTransmit => s.engState = .transmitting ∧ ∀ a ∈ s.todo.dropLast, a.ofArming = true
    | some a => a.isLast = true ∧ s.engState ≠ .idle
  burst : .storeBurst ∈ s.todo →
    (∃ cmd n rest, s.todo = .issue (.readBurst cmd n) :: .storeBurst :: rest ∧ .storeBurst ∉ rest) ∨
      ∃ rest, s.todo = .storeBurst :: rest ∧ .storeBurst ∉ rest ∧ s.rdBurst.length ≤ s.cfg.fifoCap

/-- Whether INIT is in progress past its checks. -/
def State.initialising (s : State) : Prop := s.todo.getLast? = some .initDone

/-- The identity (R21, R23, R284): valid once INIT has passed its checks, and the reset identity before. -/
def IdentityOk (s : State) : Prop :=
  ((s.engState ≠ .idle ∨ s.initialising) →
    (addrMin ≤ s.deviceAddress ∧ s.deviceAddress ≤ addrMax) ∧ s.cfg.powerValid s.outputPower = true) ∧
  (s.engState = .idle → ¬ s.initialising → s.fault = false →
    s.deviceAddress = 0 ∧ s.messageSignature = 0 ∧ s.outputPower = 0)

/-- Whether POST_MESSAGE is in progress past its checks. -/
def State.posting (s : State) : Prop := ∃ a, s.todo.getLast? = some a ∧ a.ofPost = true

/-- The outstanding transmission (R34, R35, R69): while POST_MESSAGE is in progress `awaitAddr` holds its recipient,
`awaitValid` says whether that is unicast, and `txLen` is the length of its frame; when nobody waits (and no fault cut a command short) `awaitValid = 0`; and the
mark `ackSeen` is never set where nothing is outstanding. -/
structure AckOk (s : State) : Prop where
  posting : s.posting →
    s.awaitAddr = s.latch.opRecipient ∧ s.awaitValid = decide (s.latch.opRecipient ≠ broadcastAddr) ∧
      s.txLen = 8 + s.latch.opDataLen.toNat
  between : ¬ s.posting → s.fault = false → s.awaitValid = false
  seen : s.ackSeen = true → s.awaitValid = true

/-- `fault` and `spinCount` exist only with a finite `SPIN_LIMIT` (R37). -/
def SpinOk (s : State) : Prop := s.cfg.spinLimit = none → s.fault = false ∧ s.spinCount = 0

/-- The invariants together. -/
structure Good (s : State) : Prop where
  config : s.cfg.wf = true
  memory : MemoryOk s
  buffers : BuffersOk s
  cursor : CursorOk s
  queue : QueueOk s
  control : ControlOk s
  identity : IdentityOk s
  ack : AckOk s
  spin : SpinOk s

/-! ## Measures and premises of claims -/

/-- How often an event stands in a history. -/
def occurrences (e : Event) (h : List Event) : Nat := h.count e

/-- The transmission attempts of a history: the `STROBE_TX` events (R138, R189). -/
def attemptsIn (c : Config) (h : List Event) : Nat := occurrences (.strobe c.radio.strobeTx) h

/-- The events of one `Transmit(B)` whose spins see their state at the first read (R138). -/
def transmitEvents (c : Config) (B : Bytes) (done armed : Byte) : List Event :=
  [.writeBurst c.radio.cmdTxfifo B, .strobe c.radio.strobeTx, .readReg c.radio.regMarcstate done,
    .strobe c.radio.strobeRx, .readReg c.radio.regMarcstate armed]

/-- The radio completes every transaction (R145: a premise on the environment). -/
def State.radioCompletes (s : State) : Prop := s.env.completions = none

/-- A command has hung on a transaction (R270): the next action is one that the radio never completes. -/
def State.hung (s : State) : Prop :=
  ∃ a rest, s.todo = a :: rest ∧ a.isTransaction = true ∧ s.env.completions = some 0

/-- Every accepted command but the one in progress has had its one response (R45). -/
def HistoryBalanced (s : State) : Prop :=
  (s.hist.countP fun e => match e with | .accepted _ => true | _ => false) =
    (s.hist.countP fun e => match e with | .response _ => true | _ => false) + (if s.busy then 1 else 0)

/-- The block's own state, but for the command port's part of it, is the same in both states: what a refused command leaves
(R180). The port's part is `busy`, the operand latches, the response and the control position. -/
def SameButPort (s t : State) : Prop :=
  t = { s with
    busy := t.busy
    latch := t.latch
    opData := t.opData
    rsp := t.rsp
    todo := t.todo
    tick := t.tick
    hist := t.hist }

/-- The transitions of `engState` that R195 lists, apart from reset. -/
def EngState.mayFollow : EngState → EngState → Bool
  | .idle, .idle => true
  | .idle, .receiving => true
  | .receiving, .receiving => true
  | .receiving, .transmitting => true
  | .transmitting, .transmitting => true
  | .transmitting, .receiving => true
  | .transmitting, .awaitingAck => true
  | .awaitingAck, .awaitingAck => true
  | .awaitingAck, .transmitting => true
  | .awaitingAck, .receiving => true
  | _, _ => false

/-- Run `k` steps. -/
def run (k : Nat) (s : State) : Result := Host.Core.run Sys2Proof.core k s

end Sys2Proof.Machine
end

