-- ==== Sys2Proof/Certificates/Slice0/Obligations.lean ====
section
/-! DEFINITION. The statements about the block, for the provers. -/

open Sys2Proof Sys2Proof.Machine

/-! ## Reset -/

/-- R50: every value the reset table gives. -/
def Obligations.ResetLeavesTheTableValues : Prop :=
  State.reset.deviceAddress = 0x00 ∧ State.reset.messageSignature = 0x0000 ∧ State.reset.outputPower = 0x00 ∧
  State.reset.rxLen = 0 ∧ State.reset.txLen = 0 ∧ State.reset.engState = .idle ∧ State.reset.attempt = 0 ∧
  State.reset.rxOff = 0 ∧ State.reset.rxRem = 0 ∧ State.reset.ackSeen = false ∧ State.reset.awaitValid = false ∧
  State.reset.busy = false ∧ State.reset.fault = false ∧ State.reset.spinCount = 0 ∧ State.reset.winTimer = 0 ∧
  (∀ p < 20, State.reset.occupied[p]? = some false) ∧ State.reset.head = none ∧ State.reset.tail = none ∧
  State.reset.count = 0 ∧ queueContents State.reset = [] ∧ State.reset.hist = []

/-- R300, R301: asserted from any state, in the middle of a command too, reset gives the state after reset, but for the
parameters and for what is not the block's: the environment, the pins, and the counter of the free values. That registers
the table leaves unspecified take the model's reset values is the model's choice (log 10, log 13). -/
def Obligations.ResetAbandonsTheCommand : Prop :=
  ∀ s, s.resetPin = true →
    ∃ t, step s = .next t ∧
      t = { State.reset with cfg := s.cfg, env := s.env, tick := s.tick, cmdPort := s.cmdPort, resetPin := s.resetPin } ∧
      t.cmdReady = true ∧ queueContents t = []

/-! ## Encodings -/

/-- R91, R92, R100 to R102: decoding an encoded well-formed instruction of any format gives it back. How command and
transaction records lie in bytes is the model's choice (log 7, log 8). -/
def Obligations.DecodeOfEncode : Prop :=
  ∀ c i, c.ptAck ≠ c.ptMsg → Instr.wf c i = true → decode c i.format (encode c i) = .ok i

/-- The other direction: a byte string decodes to at most its own encoding, and to a well-formed instruction of its
format. -/
def Obligations.EncodeOfDecode : Prop :=
  ∀ c f bs i, decode c f bs = .ok i → i.format = f ∧ Instr.wf c i = true ∧ encode c i = bs

/-- Words written out from the encodings of R91, R92, R100 and R102, with the default type codes of R98 and byte order of
R62. -/
def Obligations.WordsDecodeAsTheTableSays : Prop :=
  ∀ c, c.ptAck = 0x00 → c.ptMsg = 0x01 → c.tokenLe = true → c.fifoCap = 64 →
    decode c .frame [0b00000101, 0x09, 0x05, 0xEF, 0xBE, 0b00000000] = .ok (.frameAck 0x09 0x05 0xBEEF) ∧
    decode c .frame [0x0A, 0x09, 0x05, 0xEF, 0xBE, 0b00000001, 0x02, 0x03, 0x11, 0x22, 0x33] =
      .ok (.frameMsg 0x09 0x05 0xBEEF 0x02 [0x11, 0x22, 0x33]) ∧
    decode c .cmd [0b000, 0x05, 0x03, 0xEF, 0xBE] = .ok (.init 0x05 0x03 0xBEEF) ∧
    decode c .cmd [0b001] = .ok .poll ∧ decode c .cmd [0b010] = .ok .getMessage ∧
    decode c .cmd [0b100] = .ok .getVersion ∧ decode c .cmd [0b101] = .ok .getPartNumber ∧
    decode c .cmd [0b110] = .error (.reservedOp 6) ∧ decode c .cmd [0b111] = .error (.reservedOp 7) ∧
    decode c .radio [0b000, 0x35] = .ok (.readReg 0x35) ∧ decode c .radio [0b100, 0x34] = .ok (.strobe 0x34) ∧
    decode c .radio [0b010, 0xFF, 0x1E] = .ok (.readBurst 0xFF 30)

/-- R163: the length byte of every frame the encoder builds is the length less one, 5 for an ACK and `7 + n` for a MSG. -/
def Obligations.LengthByteCountsWhatFollows : Prop :=
  ∀ c i, i.format = .frame → Instr.wf c i = true →
    ∃ L rest, encode c i = L :: rest ∧ L.toNat = rest.length ∧ 5 ≤ rest.length ∧ rest.length ≤ 39

/-- R168: the round trip through the receive buffer, for every frame, either byte order and any trailer. -/
def Obligations.ReceivedFrameRoundTrip : Prop :=
  ∀ s t i x y, s.cfg.ptAck ≠ s.cfg.ptMsg → i.format = .frame → Instr.wf s.cfg i = true →
    memWrite s .rx 0 (encode s.cfg i ++ [x, y]) = .ok t →
    decodeOne t 0 ((encode s.cfg i).length + 2 : Nat) = .ok (.frame i, (encode s.cfg i).length + 2)

/-- R164, R165: DecodeOne accepts exactly the well-formed frames that lie, with their two trailer bytes, inside the burst. -/
def Obligations.DecodeOneAcceptsExactlyFrames : Prop :=
  ∀ s o rem i n, s.cfg.ptAck ≠ s.cfg.ptMsg →
    (decodeOne s o rem = .ok (.frame i, n) ↔
      i.format = .frame ∧ Instr.wf s.cfg i = true ∧ n = (encode s.cfg i).length + 2 ∧ (n : Int) ≤ rem ∧
        memRead s .rx o (encode s.cfg i).length = .ok (encode s.cfg i))

/-- R95, R164, R170: whatever DecodeOne finds, the consumed size is the length byte plus 3, so 3 to 258. -/
def Obligations.ConsumedIsLengthPlusThree : Prop :=
  ∀ s o rem r n, decodeOne s o rem = .ok (r, n) →
    ∃ L, readByte s .rx o = some L ∧ n = L.toNat + 3 ∧ 3 ≤ n ∧ n ≤ 258

/-- R165: the seven checks in their order, the first failure first. `F` holds the `L + 1` bytes from `o` on. -/
def Obligations.MalformedReasonsInOrder : Prop :=
  ∀ s o rem L, readByte s .rx o = some L →
    (L.toNat < 5 → decodeOne s o rem = .ok (.malformed .shortHeader, L.toNat + 3)) ∧
    (5 ≤ L.toNat → rem < (L.toNat : Int) + 3 → decodeOne s o rem = .ok (.malformed .truncated, L.toNat + 3)) ∧
    ∀ F, 5 ≤ L.toNat → (L.toNat : Int) + 3 ≤ rem → memRead s .rx o (L.toNat + 1) = .ok F →
      (F[5]? = some s.cfg.ptAck → L ≠ 5 → decodeOne s o rem = .ok (.malformed .ackLength, L.toNat + 3)) ∧
      (s.cfg.ptAck ≠ s.cfg.ptMsg → F[5]? = some s.cfg.ptMsg →
        (L.toNat < 7 → decodeOne s o rem = .ok (.malformed .msgShort, L.toNat + 3)) ∧
        ∀ n, F[7]? = some n →
          (32 < n.toNat → decodeOne s o rem = .ok (.malformed .dataLen, L.toNat + 3)) ∧
          (n.toNat ≤ 32 → L.toNat ≠ 7 + n.toNat → decodeOne s o rem = .ok (.malformed .lengthMismatch, L.toNat + 3))) ∧
      (F[5]? ≠ some s.cfg.ptAck → F[5]? ≠ some s.cfg.ptMsg →
        decodeOne s o rem = .ok (.malformed .reservedType, L.toNat + 3))

/-! ## The step -/

/-- A step runs the instruction it decodes: a command record at an idle port (R45), a frame at the burst cursor (R164, R167),
a transaction the radio completes (R47). What the step adds: the record leaves the port; the cursor moves on by the consumed
size and the split loop goes on after the frame; the action leaves the control position. -/
def Obligations.StepRunsTheDecodedInstruction : Prop :=
  (∀ s i record others, s.resetPin = false → s.todo = [] → s.busy = false → s.cmdPort = record :: others →
    decode s.cfg .cmd record = .ok i → step s = exec i { s with cmdPort := others }) ∧
  (∀ s i n rest, s.resetPin = false → s.todo = .split :: rest → 0 < s.rxRem →
    decodeOne s s.rxOff s.rxRem = .ok (.frame i, n) →
    step s = exec i { s with todo := .advance n :: .split :: rest }) ∧
  (∀ s i rest, s.resetPin = false → s.todo = .issue i :: rest → s.env.completions ≠ some 0 →
    step s = exec i { s with todo := rest, env := { s.env with completions := s.env.completions.map (· - 1) } })

/-- R36, R45: while `busy = 1` no record is taken from the port. -/
def Obligations.BusyPortAcceptsNothing : Prop :=
  ∀ s t, s.busy = true → s.resetPin = false → step s = .next t → t.cmdPort = s.cmdPort

/-- R45: one response for each accepted command. From a good state, a step keeps the balance of acceptances and responses. -/
def Obligations.OneResponsePerAcceptedCommand : Prop :=
  ∀ s t, Good s → HistoryBalanced s → step s = .next t → HistoryBalanced t

/-- R270: a command whose next transaction the radio never completes makes no further step, and stays busy. -/
def Obligations.HungBlockNeverMoves : Prop :=
  ∀ s k, s.resetPin = false → s.hung → run k s = .next s

/-! ## Gating and refusals -/

/-- R272, R260, R45: while `fault = 1` every command, a reserved code too, is refused with FAULTED, with no radio-port event
and no change but at the port, and no step but reset clears `fault`. `op` is the command's own code, the first byte of its
record. What the operand latches hold after a refusal, and that the refusal's event is the one its acceptance and its response
show, is the model's reading (log 11, log 14). -/
def Obligations.FaultedRefusesEveryCommand : Prop :=
  (∀ i s op, i.format = .cmd → (encode s.cfg i).head? = some (op.setWidth 8) → s.fault = true →
    ∃ t, exec i s = .next t ∧ t.rsp = some ⟨false, .faulted, .nothing⟩ ∧ t.busy = false ∧ t.todo = [] ∧
      SameButPort s t ∧ t.hist = s.hist ++ [.accepted op, .response ⟨false, .faulted, .nothing⟩] ∧
      t.eventsShown = s.eventsShown ++ [.faulted op]) ∧
  (∀ s op record others, s.resetPin = false → s.todo = [] → s.busy = false → s.cmdPort = record :: others →
    decode s.cfg .cmd record = .error (.reservedOp op) → s.fault = true →
    ∃ t, step s = .next t ∧ t.rsp = some ⟨false, .faulted, .nothing⟩ ∧ t.busy = false ∧ t.todo = [] ∧
      SameButPort { s with cmdPort := others } t ∧
      t.hist = s.hist ++ [.accepted op, .response ⟨false, .faulted, .nothing⟩] ∧
      t.eventsShown = s.eventsShown ++ [.faulted op]) ∧
  ∀ s t, s.resetPin = false → s.fault = true → step s = .next t → t.fault = true

/-- R180, R273: the refusals of the gating table with `fault = 0`: POLL and POST_MESSAGE in IDLE, INIT outside IDLE,
reserved codes everywhere. Each leaves the block's state alone and causes no radio-port event. That the event of R260 is the
one the acceptance and the response show is the model's reading (log 14). -/
def Obligations.GatingRefusesByState : Prop :=
  (∀ s, s.fault = false → s.engState = .idle →
    ∃ t, exec .poll s = .next t ∧ t.rsp = some ⟨false, .notInit, .nothing⟩ ∧ t.busy = false ∧ SameButPort s t ∧
      t.hist = s.hist ++ [.accepted 1, .response ⟨false, .notInit, .nothing⟩] ∧
      t.eventsShown = s.eventsShown ++ [.notInit 1]) ∧
  (∀ s r m n d k, s.fault = false → s.engState = .idle →
    ∃ t, exec (.postMessage r m n d k) s = .next t ∧ t.rsp = some ⟨false, .notInit, .nothing⟩ ∧ t.busy = false ∧
      SameButPort s t ∧
      t.hist = s.hist ++ [.accepted 3, .response ⟨false, .notInit, .nothing⟩] ∧
      t.eventsShown = s.eventsShown ++ [.notInit 3]) ∧
  (∀ s a p g, s.fault = false → s.engState ≠ .idle →
    ∃ t, exec (.init a p g) s = .next t ∧ t.rsp = some ⟨false, .alreadyInit, .nothing⟩ ∧ t.busy = false ∧
      SameButPort s t ∧
      t.hist = s.hist ++ [.accepted 0, .response ⟨false, .alreadyInit, .nothing⟩] ∧
      t.eventsShown = s.eventsShown ++ [.alreadyInit]) ∧
  (∀ s op record others, s.resetPin = false → s.todo = [] → s.busy = false → s.cmdPort = record :: others →
    decode s.cfg .cmd record = .error (.reservedOp op) → s.fault = false →
    ∃ t, step s = .next t ∧ t.rsp = some ⟨false, .reservedCmd, .nothing⟩ ∧ t.busy = false ∧
      SameButPort { s with cmdPort := others } t ∧
      t.hist = s.hist ++ [.accepted op, .response ⟨false, .reservedCmd, .nothing⟩] ∧
      t.eventsShown = s.eventsShown ++ [.reservedCmd op])

/-! ## INIT -/

/-- R181: INIT with an address outside 1..126, or else an invalid power, fails in IDLE, writes nothing of the block's state
and causes no radio-port event; the address is tested first. -/
def Obligations.InitRejectsBadOperands : Prop :=
  ∀ s a p g, s.fault = false → s.engState = .idle →
    (a.toNat < 1 ∨ 126 < a.toNat →
      ∃ t, exec (.init a p g) s = .next t ∧ t.rsp = some ⟨false, .cfgAddr, .nothing⟩ ∧ t.busy = false ∧ SameButPort s t ∧
        t.hist = s.hist ++
          [.accepted 0, .raised (.configError .address a), .response ⟨false, .cfgAddr, .nothing⟩]) ∧
    (1 ≤ a.toNat → a.toNat ≤ 126 → s.cfg.powerValid p = false →
      ∃ t, exec (.init a p g) s = .next t ∧ t.rsp = some ⟨false, .cfgPower, .nothing⟩ ∧ t.busy = false ∧ SameButPort s t ∧
        t.hist = s.hist ++ [.accepted 0, .raised (.configError .power p), .response ⟨false, .cfgPower, .nothing⟩])

/-- R181: INIT with valid operands in IDLE writes the identity, and with a radio that reports receive-armed at the first read
it configures the radio, arms it, enters RECEIVING and answers ok. Nothing else of the block changes. -/
def Obligations.InitCompletes : Prop :=
  ∀ s a p g armed more, s.resetPin = false → s.fault = false → s.engState = .idle → s.radioCompletes →
    1 ≤ a.toNat → a.toNat ≤ 126 → s.cfg.powerValid p = true →
    s.env.regs = armed :: more → awaitedState s .rxArmed armed = true →
    ∃ t u, exec (.init a p g) s = .next t ∧
      t.deviceAddress = a ∧ t.outputPower = p ∧ t.messageSignature = g ∧ t.busy = true ∧
      run 6 t = .next u ∧
      u = { s with
        deviceAddress := a, outputPower := p, messageSignature := g, engState := .receiving
        busy := false, rsp := some ⟨true, .ok, .nothing⟩, todo := []
        latch := u.latch, opData := [], tick := u.tick, rdData := armed, spinCount := u.spinCount
        env := { s.env with regs := more }
        hist := s.hist ++ [.accepted 0, .configure p, .strobe s.cfg.radio.strobeRx,
          .readReg s.cfg.radio.regMarcstate armed, .response ⟨true, .ok, .nothing⟩] } ∧
      (s.cfg.spinLimit = none → u.spinCount = s.spinCount)

/-- R21 to R23, R322: no step but the acceptance of an INIT record and reset changes the identity registers. -/
def Obligations.OnlyInitWritesTheIdentity : Prop :=
  ∀ s t, ControlOk s → s.resetPin = false → step s = .next t →
    (t.deviceAddress, t.outputPower, t.messageSignature) ≠ (s.deviceAddress, s.outputPower, s.messageSignature) →
    ∃ record others a p g, s.todo = [] ∧ s.cmdPort = record :: others ∧ decode s.cfg .cmd record = .ok (.init a p g) ∧
      s.engState = .idle ∧ t.deviceAddress = a ∧ t.outputPower = p ∧ t.messageSignature = g

/-! ## Diagnostics -/

/-- R142, R143: GET_VERSION and GET_PARTNUMBER read their register and answer the byte, in every state that is not
faulted. -/
def Obligations.DiagnosticsAnswerTheByte : Prop :=
  ∀ s b more, s.resetPin = false → s.fault = false → s.radioCompletes → s.env.regs = b :: more →
    (∃ t u, exec .getVersion s = .next t ∧ run 2 t = .next u ∧
      u = { s with
        busy := false, rsp := some ⟨true, .ok, .value b⟩, todo := [], latch := u.latch, opData := [], tick := u.tick
        rdData := b, env := { s.env with regs := more }
        hist := s.hist ++ [.accepted 4, .readReg s.cfg.radio.regVersion b, .response ⟨true, .ok, .value b⟩] }) ∧
    ∃ t u, exec .getPartNumber s = .next t ∧ run 2 t = .next u ∧
      u = { s with
        busy := false, rsp := some ⟨true, .ok, .value b⟩, todo := [], latch := u.latch, opData := [], tick := u.tick
        rdData := b, env := { s.env with regs := more }
        hist := s.hist ++ [.accepted 5, .readReg s.cfg.radio.regPartnum b, .response ⟨true, .ok, .value b⟩] }

/-! ## The radio port -/

/-- R131, R133: a register read completes with a byte and a burst read with exactly `n` bytes, whatever the environment
answers; a scripted answer is the one returned. The block's own state is unchanged but for the port's read data. -/
def Obligations.ReadsReturnTheAnswer : Prop :=
  (∀ s id b more, s.env.regs = b :: more →
    exec (.readReg id) s = .next { s with
      rdData := b, env := { s.env with regs := more }, hist := s.hist ++ [.readReg id b] }) ∧
  (∀ s cmd n B more, B.length = n → s.env.fifo = B ++ more →
    ∃ t, exec (.readBurst cmd n) s = .next t ∧ t = { s with
      rdBurst := B, env := { s.env with fifo := more }, tick := t.tick, hist := s.hist ++ [.readBurst cmd n B] }) ∧
  (∀ s id, ∃ t b, exec (.readReg id) s = .next t ∧ t.rdData = b ∧ t.hist = s.hist ++ [.readReg id b] ∧
    t = { s with rdData := b, env := t.env, tick := t.tick, hist := t.hist }) ∧
  (∀ s cmd n, ∃ t B, exec (.readBurst cmd n) s = .next t ∧ B.length = n ∧ t.rdBurst = B ∧
    t.hist = s.hist ++ [.readBurst cmd n B] ∧ t = { s with rdBurst := B, env := t.env, tick := t.tick, hist := t.hist })

/-- R132, R134, R135: a register write, a burst write and a strobe write no state of the block; the history gains the one
event. -/
def Obligations.WritesAndStrobesOnlyRecord : Prop :=
  ∀ s, (∀ id v, exec (.writeReg id v) s = .next { s with hist := s.hist ++ [.writeReg id v] }) ∧
    (∀ cmd B, exec (.writeBurst cmd B) s = .next { s with hist := s.hist ++ [.writeBurst cmd B] }) ∧
    (∀ cmd, exec (.strobe cmd) s = .next { s with hist := s.hist ++ [.strobe cmd] })

/-- R137, R280: a Confirm returns after any number of unsuccessful reads with `SPIN_LIMIT = none`, and with `SPIN_LIMIT = some
N` after fewer than N of them, so on the N-th read too; nothing changes but the answers consumed, the reads recorded, and with
a limit the count of unsuccessful reads. -/
def Obligations.ConfirmReturnsAfterAnyReads : Prop :=
  (∀ s p rest others good more, s.resetPin = false → s.todo = .confirm p :: rest → s.cfg.spinLimit = none →
    s.radioCompletes → s.env.regs = others ++ good :: more →
    (∀ b ∈ others, awaitedState s p b = false) → awaitedState s p good = true →
    run (1 + 2 * (others.length + 1)) s = .next { s with
      todo := rest, rdData := good, env := { s.env with regs := more }
      hist := s.hist ++ (others ++ [good]).map (.readReg s.cfg.radio.regMarcstate) }) ∧
  ∀ s p rest others good more n, s.resetPin = false → s.todo = .confirm p :: rest → s.cfg.spinLimit = some n →
    s.radioCompletes → s.env.regs = others ++ good :: more → others.length < n →
    (∀ b ∈ others, awaitedState s p b = false) → awaitedState s p good = true →
    run (1 + 2 * (others.length + 1)) s = .next { s with
      todo := rest, rdData := good, spinCount := others.length, env := { s.env with regs := more }
      hist := s.hist ++ (others ++ [good]).map (.readReg s.cfg.radio.regMarcstate) }

/-- R137, R271: with `SPIN_LIMIT = some N`, exactly N unsuccessful reads set `fault` and abandon the command with
RADIO_TIMEOUT; all other state stays as it was. -/
def Obligations.ConfirmTimesOutAtTheLimit : Prop :=
  ∀ s p rest others more n, s.resetPin = false → s.todo = .confirm p :: rest → s.cfg.spinLimit = some n → 1 ≤ n →
    s.radioCompletes → others.length = n → s.env.regs = others ++ more →
    (∀ b ∈ others, awaitedState s p b = false) →
    ∃ u, run (1 + 2 * n) s = .next u ∧
      u = { s with
        todo := [], fault := true, busy := false, rsp := some ⟨false, .radioTimeout, .nothing⟩, spinCount := n
        rdData := u.rdData, env := { s.env with regs := more }
        hist := s.hist ++ others.map (.readReg s.cfg.radio.regMarcstate) ++
          [.raised (.radioTimeout p), .response ⟨false, .radioTimeout, .nothing⟩] }

/-- R270, R310: with `SPIN_LIMIT = none` a radio that never reports the awaited state keeps the command spinning: after any
number of unsuccessful reads it is as far as before, busy and without a response. -/
def Obligations.SpinWithoutLimitNeverEnds : Prop :=
  ∀ s p rest others, s.resetPin = false → s.todo = .issue (.readReg s.cfg.radio.regMarcstate) :: .test p :: rest →
    s.cfg.spinLimit = none → s.radioCompletes → s.busy = true → s.env.regs = others →
    (∀ b ∈ others, awaitedState s p b = false) →
    ∃ u, run (2 * others.length) s = .next u ∧ u.todo = s.todo ∧ u.busy = true ∧ u.rsp = s.rsp ∧ u.fault = s.fault

/-- R138: the transmit sequence: load, strobe transmit, confirm, strobe receive, confirm, in that order, and nothing else. -/
def Obligations.TransmitSequenceInOrder : Prop :=
  ∀ s B rest done armed more, s.resetPin = false → s.todo = transmitActs s.cfg B ++ rest → s.radioCompletes →
    s.env.regs = done :: armed :: more → awaitedState s .txDone done = true → awaitedState s .rxArmed armed = true →
    ∃ u, run 9 s = .next u ∧
      u = { s with
        todo := rest, rdData := armed, spinCount := u.spinCount, env := { s.env with regs := more }
        hist := s.hist ++ transmitEvents s.cfg B done armed }

/-! ## Reception -/

/-- R210, R211: POLL that finds nothing to read answers whether the queue holds a frame: with the line not asserted it asks
the radio nothing, and with the line asserted and a count of 0 it reads no burst. The poll cycle of POST_MESSAGE does the same
and is then at the end of its pass (R187). -/
def Obligations.PollWithoutBurst : Prop :=
  (∀ s more, s.fault = false → s.engState ≠ .idle → s.env.line = false :: more →
    ∃ t, exec .poll s = .next t ∧
      t = { s with
        engState := .receiving, busy := false, rsp := some ⟨decide (s.count ≠ 0), .ok, .nothing⟩, todo := []
        latch := t.latch, opData := [], tick := t.tick, env := { s.env with line := more }
        hist := s.hist ++ [.accepted 1, .lineSample false, .response ⟨decide (s.count ≠ 0), .ok, .nothing⟩] }) ∧
  (∀ s moreLine b more, s.resetPin = false → s.fault = false → s.engState ≠ .idle → s.todo = [] → s.radioCompletes →
    s.env.line = true :: moreLine → s.env.regs = b :: more → s.cfg.rxCountDecode b = (false, 0) →
    ∃ t u, exec .poll s = .next t ∧ run 3 t = .next u ∧
      u = { s with
        engState := .receiving, busy := false, rsp := some ⟨decide (s.count ≠ 0), .ok, .nothing⟩, todo := []
        latch := u.latch, opData := [], tick := u.tick, rdData := b, rxLen := 0, rxOff := 0, rxRem := 0
        env := { s.env with line := moreLine, regs := more }
        hist := s.hist ++ [.accepted 1, .lineSample true, .readReg s.cfg.radio.regRxbytes b,
          .response ⟨decide (s.count ≠ 0), .ok, .nothing⟩] }) ∧
  (∀ s rest more, s.resetPin = false → s.todo = .pollCycle .post :: rest → s.env.line = false :: more →
    step s = step { s with
      todo := .endCycle .post false :: rest, env := { s.env with line := more }, hist := s.hist ++ [.lineSample false] }) ∧
  ∀ s rest moreLine b more, s.resetPin = false → s.todo = .pollCycle .post :: rest → s.radioCompletes →
    s.env.line = true :: moreLine → s.env.regs = b :: more → s.cfg.rxCountDecode b = (false, 0) →
    run 3 s = .next { s with
      todo := .endCycle .post false :: rest, rdData := b, rxLen := 0, rxOff := 0, rxRem := 0
      env := { s.env with line := moreLine, regs := more }
      hist := s.hist ++ [.lineSample true, .readReg s.cfg.radio.regRxbytes b] }

/-- R211, R212: POLL with the line asserted and an overflow, or a count above the capacity, flushes, re-arms, and answers
false with RX_OVERFLOW whatever the queue holds; the receive buffer and the queue are untouched. The poll cycle of POST_MESSAGE
flushes and re-arms too, and is then at the end of its pass with `ackSeen` as it was: no acknowledgment observed (R187, R282). -/
def Obligations.PollOverflowFlushes : Prop :=
  (∀ s moreLine b armed more, s.resetPin = false → s.fault = false → s.engState ≠ .idle → s.todo = [] → s.radioCompletes →
    s.env.line = true :: moreLine → s.env.regs = b :: armed :: more →
    ((s.cfg.rxCountDecode b).1 = true ∨ s.cfg.fifoCap < (s.cfg.rxCountDecode b).2) →
    awaitedState s .rxArmed armed = true →
    ∃ t u, exec .poll s = .next t ∧ run 8 t = .next u ∧
      u = { s with
        engState := .receiving, busy := false, rsp := some ⟨false, .rxOverflow, .nothing⟩, todo := []
        latch := u.latch, opData := [], tick := u.tick, rdData := armed, spinCount := u.spinCount
        env := { s.env with line := moreLine, regs := more }
        hist := s.hist ++ [.accepted 1, .lineSample true, .readReg s.cfg.radio.regRxbytes b,
          .raised (.rxOverflow (s.cfg.rxCountDecode b).1 (s.cfg.rxCountDecode b).2),
          .strobe s.cfg.radio.strobeFlushRx, .strobe s.cfg.radio.strobeRx, .readReg s.cfg.radio.regMarcstate armed,
          .response ⟨false, .rxOverflow, .nothing⟩] }) ∧
  ∀ s rest moreLine b armed more, s.resetPin = false → s.todo = .pollCycle .post :: rest → s.radioCompletes →
    s.env.line = true :: moreLine → s.env.regs = b :: armed :: more →
    ((s.cfg.rxCountDecode b).1 = true ∨ s.cfg.fifoCap < (s.cfg.rxCountDecode b).2) →
    awaitedState s .rxArmed armed = true →
    ∃ u, run 8 s = .next u ∧ u = { s with
      todo := .endCycle .post true :: rest, rdData := armed, spinCount := u.spinCount
      env := { s.env with line := moreLine, regs := more }
      hist := s.hist ++ [.lineSample true, .readReg s.cfg.radio.regRxbytes b,
        .raised (.rxOverflow (s.cfg.rxCountDecode b).1 (s.cfg.rxCountDecode b).2),
        .strobe s.cfg.radio.strobeFlushRx, .strobe s.cfg.radio.strobeRx, .readReg s.cfg.radio.regMarcstate armed] }

/-- R211, R212: POLL with a count within the capacity reads exactly that many bytes into the receive buffer, sets `rxLen`, and
is at the start of the split loop; bytes at and above the count keep what they held. So does the poll cycle of POST_MESSAGE.
R167: after a frame the cursor moves on by the consumed size, and the loop ends when nothing remains. R210, R211 step 7: POLL
then enters RECEIVING and answers whether the queue holds a frame. So a POLL whose burst is one message to broadcast answers
true with the message's page queued. -/
def Obligations.PollReadsTheBurst : Prop :=
  (∀ s moreLine b more B moreFifo, s.resetPin = false → s.fault = false → s.engState ≠ .idle → s.todo = [] →
    s.radioCompletes → s.env.line = true :: moreLine → s.env.regs = b :: more → s.env.fifo = B ++ moreFifo →
    s.cfg.rxCountDecode b = (false, B.length) → B ≠ [] → B.length ≤ s.cfg.fifoCap →
    ∃ t u, exec .poll s = .next t ∧ run 4 t = .next u ∧
      u = { s with
        busy := true, rsp := none, todo := [.split, .endCycle .poll false]
        latch := u.latch, opData := [], tick := u.tick, rdData := b, rdBurst := B
        rxBuf := u.rxBuf, rxLen := B.length, rxOff := 0, rxRem := (B.length : Int)
        env := { s.env with line := moreLine, regs := more, fifo := moreFifo }
        hist := s.hist ++ [.accepted 1, .lineSample true, .readReg s.cfg.radio.regRxbytes b,
          .readBurst s.cfg.radio.cmdRxfifo B.length B] } ∧
      memRead u .rx 0 B.length = .ok B ∧ ∀ a, B.length ≤ a → readByte u .rx a = readByte s .rx a) ∧
  (∀ s rest moreLine b more B moreFifo, s.resetPin = false → s.todo = .pollCycle .post :: rest → s.radioCompletes →
    s.env.line = true :: moreLine → s.env.regs = b :: more → s.env.fifo = B ++ moreFifo →
    s.cfg.rxCountDecode b = (false, B.length) → B ≠ [] → B.length ≤ s.cfg.fifoCap →
    ∃ u, run 5 s = .next u ∧
      u = { s with
        todo := .split :: .endCycle .post false :: rest, tick := u.tick, rdData := b, rdBurst := B
        rxBuf := u.rxBuf, rxLen := B.length, rxOff := 0, rxRem := (B.length : Int)
        env := { s.env with line := moreLine, regs := more, fifo := moreFifo }
        hist := s.hist ++ [.lineSample true, .readReg s.cfg.radio.regRxbytes b,
          .readBurst s.cfg.radio.cmdRxfifo B.length B] } ∧
      memRead u .rx 0 B.length = .ok B ∧ ∀ a, B.length ≤ a → readByte u .rx a = readByte s .rx a) ∧
  (∀ s n rest, s.resetPin = false → s.todo = .advance n :: rest →
    step s = .next { s with todo := rest, rxOff := s.rxOff + n, rxRem := s.rxRem - n }) ∧
  (∀ s rest, s.resetPin = false → s.todo = .split :: rest → s.rxRem ≤ 0 → step s = .next { s with todo := rest }) ∧
  (∀ s, s.resetPin = false → s.todo = [.endCycle .poll false] →
    step s = .next { s with
      engState := .receiving, busy := false, rsp := some ⟨decide (s.count ≠ 0), .ok, .nothing⟩, todo := []
      hist := s.hist ++ [.response ⟨decide (s.count ≠ 0), .ok, .nothing⟩] }) ∧
  ∀ s sd m d x y, s.resetPin = false → s.cfg.ptAck ≠ s.cfg.ptMsg → QueueOk s → s.count < 20 → d.length ≤ 32 →
    s.todo = [.split, .endCycle .poll false] → s.rxOff = 0 → s.rxRem = ((8 + d.length + 2 : Nat) : Int) →
    memRead s .rx 0 (8 + d.length + 2) =
      .ok (encode s.cfg (.frameMsg 0 sd s.messageSignature m d) ++ [x, y]) →
    ∃ u, run 5 s = .next u ∧ u.rsp = some ⟨true, .ok, .nothing⟩ ∧ u.busy = false ∧ u.todo = [] ∧ u.engState = .receiving ∧
      queueContents u = queueContents s ++ [pageImage s.cfg 0 sd s.messageSignature m d] ∧ u.rxRem = 0 ∧
      u.hist = s.hist ++ [.response ⟨true, .ok, .nothing⟩]

/-- R167: a malformed frame is discarded whole; the history gains one event and the cursor moves on by the consumed size. -/
def Obligations.MalformedFrameIsDiscarded : Prop :=
  ∀ s rest why n, s.resetPin = false → s.todo = .split :: rest → 0 < s.rxRem →
    decodeOne s s.rxOff s.rxRem = .ok (.malformed why, n) →
    run 2 s = .next { s with
      rxOff := s.rxOff + n, rxRem := s.rxRem - n, hist := s.hist ++ [.raised (.malformedFrame why s.rxOff)] }

/-- R214: a frame of either kind with another token is discarded: no ACK, no mark, no push, nothing but the event. -/
def Obligations.WrongTokenIsDiscarded : Prop :=
  ∀ s r sd tok, tok ≠ s.messageSignature →
    exec (.frameAck r sd tok) s = .next { s with hist := s.hist ++ [.raised (.tokenMismatch tok)] } ∧
    ∀ m d, exec (.frameMsg r sd tok m d) s = .next { s with hist := s.hist ++ [.raised (.tokenMismatch tok)] }

/-- R215: a token-matching ACK for this node from the awaited sender sets `ackSeen` and does nothing else; no other frame
sets it. -/
def Obligations.MatchedAckSetsTheMark : Prop :=
  (∀ s r sd tok, tok = s.messageSignature → r = s.deviceAddress → s.awaitValid = true → sd = s.awaitAddr →
    exec (.frameAck r sd tok) s = .next { s with ackSeen := true }) ∧
  (∀ s t r sd tok, ¬ (tok = s.messageSignature ∧ r = s.deviceAddress ∧ s.awaitValid = true ∧ sd = s.awaitAddr) →
    exec (.frameAck r sd tok) s = .next t → t.ackSeen = s.ackSeen) ∧
  (∀ s t r sd tok m d, exec (.frameMsg r sd tok m d) s = .next t → t.ackSeen = s.ackSeen)

/-- R216(c), R216(d), R218, R219: frames that are not answered. An unmatched ACK to broadcast, or any unmatched ACK where
`REPLY_TO_UNMATCHED_ACK = false`, has no effect; a broadcast MSG frame is pushed without an ACK. -/
def Obligations.UnansweredFrames : Prop :=
  (∀ s r sd tok, tok = s.messageSignature →
    ¬ (r = s.deviceAddress ∧ s.awaitValid = true ∧ sd = s.awaitAddr) →
    (r = 0 ∨ s.cfg.replyToUnmatchedAck = false) → exec (.frameAck r sd tok) s = .next s) ∧
  (∀ s sd tok m d, tok = s.messageSignature →
    exec (.frameMsg 0 sd tok m d) s = .next { s with todo := .enqueue (pageImage s.cfg 0 sd tok m d) sd :: s.todo })

/-- R216, R217: an unmatched ACK that is answered: the ACK frame for its sender is built in `ackBuf` and transmitted once,
then `engState` is RECEIVING and nothing is pushed. Only `ackBuf` is written. -/
def Obligations.UnmatchedAckIsAnswered : Prop :=
  ∀ s r sd tok done armed more, s.resetPin = false → s.radioCompletes → tok = s.messageSignature →
    ¬ (r = s.deviceAddress ∧ s.awaitValid = true ∧ sd = s.awaitAddr) → r ≠ 0 → s.cfg.replyToUnmatchedAck = true →
    s.env.regs = done :: armed :: more → awaitedState s .txDone done = true → awaitedState s .rxArmed armed = true →
    ∃ t u, exec (.frameAck r sd tok) s = .next t ∧ t.engState = .transmitting ∧ run 10 t = .next u ∧
      u = { s with
        engState := .receiving, ackBuf := u.ackBuf, rdData := armed, spinCount := u.spinCount
        env := { s.env with regs := more }
        hist := s.hist ++
          transmitEvents s.cfg (encodeAck s.cfg sd s.deviceAddress s.messageSignature) done armed } ∧
      memRead u .ackb 0 6 = .ok (encodeAck s.cfg sd s.deviceAddress s.messageSignature)

/-- R216, R217, R218, R78: a token-matching MSG frame to any address but broadcast is answered with exactly one ACK to its
sender, and only after the ACK's transmit sequence is its page image the next thing to be pushed. Only `ackBuf` is written
until then. -/
def Obligations.MessageIsAcknowledgedThenPushed : Prop :=
  ∀ s r sd tok m d done armed more, s.resetPin = false → s.radioCompletes → tok = s.messageSignature → r ≠ 0 →
    s.env.regs = done :: armed :: more → awaitedState s .txDone done = true → awaitedState s .rxArmed armed = true →
    ∃ t u, exec (.frameMsg r sd tok m d) s = .next t ∧ t.engState = .transmitting ∧ t.count = s.count ∧
      run 10 t = .next u ∧
      u = { s with
        engState := .receiving, ackBuf := u.ackBuf, rdData := armed, spinCount := u.spinCount
        todo := .enqueue (pageImage s.cfg r sd tok m d) sd :: s.todo
        env := { s.env with regs := more }
        hist := s.hist ++
          transmitEvents s.cfg (encodeAck s.cfg sd s.deviceAddress s.messageSignature) done armed } ∧
      memRead u .ackb 0 6 = .ok (encodeAck s.cfg sd s.deviceAddress s.messageSignature)

/-- R218 (PDSF §8): an ACK frame never reaches Push. -/
def Obligations.AckIsNeverEnqueued : Prop :=
  ∀ s t r sd tok page sender, exec (.frameAck r sd tok) s = .next t → .enqueue page sender ∈ t.todo →
    .enqueue page sender ∈ s.todo

/-- R70, R240: a page image is 40 bytes: the serialized frame of R92, then zero filler. -/
def Obligations.PageImageIsFrameThenZeros : Prop :=
  ∀ c r sd tok m d, d.length ≤ 32 →
    (pageImage c r sd tok m d).length = 40 ∧
    (pageImage c r sd tok m d).take (8 + d.length) = encode c (.frameMsg r sd tok m d) ∧
    ∀ k, 8 + d.length ≤ k → k < 40 → (pageImage c r sd tok m d)[k]? = some 0

/-! ## The queue -/

/-- R241, R245: with fewer than 20 pages queued, Push of 40 bytes succeeds, takes the free page of least index, appends to
the abstract queue, and keeps the ring; nothing else of the block changes, and no byte outside that page. R213 step 6, R218:
where the push of a received frame is the next action, the step is that Push, and no event is raised. -/
def Obligations.PushAppends : Prop :=
  (∀ s P, QueueOk s → s.count < 20 → P.length = 40 → (P.getD 7 0).toNat ≤ 32 →
    ∃ t p, push s P = .ok (true, t) ∧ QueueOk t ∧ queueContents t = queueContents s ++ [P] ∧ t.count = s.count + 1 ∧
      freePage s = some p ∧ p < 20 ∧ s.occupied[p]? = some false ∧ (∀ q < p, s.occupied[q]? = some true) ∧
      t = { s with
        pages := t.pages, occupied := t.occupied, nextLink := t.nextLink, head := t.head, tail := t.tail, count := t.count } ∧
      ∀ q a, q ≠ p → readByte t (.page q) a = readByte s (.page q) a) ∧
  ∀ s rest page sd, s.resetPin = false → s.todo = .enqueue page sd :: rest → QueueOk s → s.count < 20 →
    page.length = 40 → (page.getD 7 0).toNat ≤ 32 →
    ∃ u t, push s page = .ok (true, u) ∧ step s = .next t ∧ t = { u with todo := rest } ∧ QueueOk t ∧
      queueContents t = queueContents s ++ [page] ∧ t.count = s.count + 1 ∧ t.hist = s.hist

/-- R242, R245: Pull of a queue that is not empty gives the oldest page, byte for byte, and leaves the rest in order; no page
byte is changed. -/
def Obligations.PullTakesTheOldest : Prop :=
  ∀ s, QueueOk s → s.count ≠ 0 →
    ∃ P rest t, queueContents s = P :: rest ∧ pull s = .ok (some P, t) ∧ QueueOk t ∧ queueContents t = rest ∧
      t.count + 1 = s.count ∧
      t = { s with occupied := t.occupied, nextLink := t.nextLink, head := t.head, tail := t.tail, count := t.count }

/-- R242 (PDSF §8): Push then Pull on an empty queue returns the content pushed. -/
def Obligations.PushThenPull : Prop :=
  ∀ s P, QueueOk s → s.count = 0 → P.length = 40 →
    ∃ t u, push s P = .ok (true, t) ∧ pull t = .ok (some P, u) ∧ u.count = 0 ∧ u.head = none ∧ u.tail = none

/-- R244: GET_MESSAGE answers the oldest message and takes it off the queue. The response carries the sender, the message
type, the length and the data with zeros beyond it. Nothing else of the block changes. -/
def Obligations.GetMessageAnswersTheOldest : Prop :=
  ∀ s P rest, QueueOk s → s.fault = false → queueContents s = P :: rest →
    ∃ t sd m n data, exec .getMessage s = .next t ∧ P[2]? = some sd ∧ P[6]? = some m ∧ P[7]? = some n ∧ n.toNat ≤ 32 ∧
      data.length = 32 ∧ data.take n.toNat = (P.drop 8).take n.toNat ∧ (∀ k, n.toNat ≤ k → k < 32 → data[k]? = some 0) ∧
      t.rsp = some ⟨true, .ok, .message sd m n data⟩ ∧ t.busy = false ∧ queueContents t = rest ∧ QueueOk t ∧
      t = { s with
        occupied := t.occupied, nextLink := t.nextLink, head := t.head, tail := t.tail, count := t.count
        busy := false, rsp := t.rsp, todo := [], latch := t.latch, opData := [], tick := t.tick
        hist := s.hist ++ [.accepted 2, .response ⟨true, .ok, .message sd m n data⟩] }

/-- R244: GET_MESSAGE on an empty queue answers none, in every engine state, changes nothing of the queue and raises nothing.
That R260's QueueEmpty is what the acceptance and the response show is the model's reading (log 14). -/
def Obligations.GetMessageOnEmptyAnswersNone : Prop :=
  ∀ s, s.fault = false → s.count = 0 →
    ∃ t, exec .getMessage s = .next t ∧ t.rsp = some ⟨false, .queueEmpty, .nothing⟩ ∧ t.busy = false ∧ t.todo = [] ∧
      SameButPort s t ∧ t.hist = s.hist ++ [.accepted 2, .response ⟨false, .queueEmpty, .nothing⟩] ∧
      t.eventsShown = s.eventsShown ++ [.queueEmpty]

/-- R213, R218, R241, R247: Push onto a full queue changes nothing and returns false, and the newest frame is dropped: one
QueueFull event, and nothing else. -/
def Obligations.FullQueueDropsTheNewest : Prop :=
  (∀ s P, s.count = 20 → push s P = .ok (false, s)) ∧
  ∀ s rest page sd, s.resetPin = false → s.todo = .enqueue page sd :: rest → s.count = 20 →
    step s = .next { s with todo := rest, hist := s.hist ++ [.raised (.queueFull sd)] }

/-! ## POST_MESSAGE -/

/-- R183: more than 32 data bytes fail before any radio activity and without side effects. -/
def Obligations.PostRejectsLongData : Prop :=
  ∀ s r m n d k, s.fault = false → s.engState ≠ .idle → 32 < n.toNat →
    ∃ t, exec (.postMessage r m n d k) s = .next t ∧ t.rsp = some ⟨false, .dataTooLong, .nothing⟩ ∧ t.busy = false ∧
      SameButPort s t ∧
      t.hist = s.hist ++ [.accepted 3, .raised (.dataTooLong n), .response ⟨false, .dataTooLong, .nothing⟩]

/-- R184, R182 step 1: POST_MESSAGE builds the frame in `txBuf`, records the outstanding transmission and starts the first
attempt with those bytes. Stored are the bytes of `txBuf` below `txLen` and the operand latch; every other byte is as before. -/
def Obligations.PostBuildsTheFrame : Prop :=
  ∀ s r m n d k, s.fault = false → s.engState ≠ .idle → s.todo = [] → d.length = 32 → n.toNat ≤ 32 →
    ∃ t, exec (.postMessage r m n d k) s = .next t ∧
      t = { s with
        busy := true, rsp := none, latch := t.latch, opData := t.opData, tick := t.tick
        txBuf := t.txBuf, txLen := 8 + n.toNat, ackSeen := false, attempt := 0
        awaitAddr := r, awaitValid := decide (r ≠ 0), engState := .transmitting
        todo := transmitActs s.cfg (encodeMsg s.cfg r s.deviceAddress s.messageSignature m n d) ++ [.afterTransmit]
        hist := s.hist ++ [.accepted 3] } ∧
      memRead t .tx 0 (8 + n.toNat) = .ok (encodeMsg s.cfg r s.deviceAddress s.messageSignature m n d) ∧
      memRead t .opData 0 32 = .ok d ∧
      t.latch.opRecipient = r ∧ t.latch.opMsgType = m ∧ t.latch.opDataLen = n ∧ t.latch.maxRetriesR = k ∧
      (∀ a, 8 + n.toNat ≤ a → readByte t .tx a = readByte s .tx a) ∧
      ∀ sp a, sp ≠ .tx → sp ≠ .opData → readByte t sp a = readByte s sp a

/-- R186: broadcast succeeds after exactly one transmission, whatever the retry bound, with no wait and no poll cycle. -/
def Obligations.BroadcastSucceedsAfterOneAttempt : Prop :=
  ∀ s m n d k done armed more, s.resetPin = false → s.fault = false → s.engState ≠ .idle → s.todo = [] →
    s.radioCompletes → d.length = 32 → n.toNat ≤ 32 → s.env.regs = done :: armed :: more →
    awaitedState s .txDone done = true → awaitedState s .rxArmed armed = true →
    ∃ t u, exec (.postMessage 0 m n d k) s = .next t ∧ run 10 t = .next u ∧
      u.rsp = some ⟨true, .ok, .nothing⟩ ∧ u.busy = false ∧ u.engState = .receiving ∧ u.awaitValid = false ∧
      u.attempt = 0 ∧ u.todo = [] ∧
      u.hist = s.hist ++ [.accepted 3] ++
        transmitEvents s.cfg (encodeMsg s.cfg 0 s.deviceAddress s.messageSignature m n d) done armed ++
        [.response ⟨true, .ok, .nothing⟩]

/-- R187, R189 (PDSF §8): a unicast POST_MESSAGE with `maxRetries = k` that never sees an ACK performs exactly `k + 1`
transmissions of the same frame, each followed by the window and one poll cycle, and then fails. The radio answers each spin
at the first read and the line is never asserted. -/
def Obligations.UnacknowledgedPostMakesAllAttempts : Prop :=
  ∀ s r m n d k done armed more moreLine, s.resetPin = false → s.fault = false → s.engState ≠ .idle → s.todo = [] →
    s.radioCompletes → r ≠ 0 → d.length = 32 → n.toNat ≤ 32 →
    awaitedState s .txDone done = true → awaitedState s .rxArmed armed = true →
    s.env.regs = (List.replicate (k + 1) [done, armed]).flatten ++ more →
    s.env.line = List.replicate (k + 1) false ++ moreLine →
    ∃ t u, exec (.postMessage r m n d k) s = .next t ∧ run (12 * (k + 1)) t = .next u ∧
      u.rsp = some ⟨false, .deliveryFail, .nothing⟩ ∧ u.busy = false ∧ u.engState = .receiving ∧ u.awaitValid = false ∧
      u.ackSeen = false ∧ u.attempt = k + 1 ∧ u.todo = [] ∧
      u.hist = s.hist ++ [.accepted 3] ++
        (List.replicate (k + 1)
          (transmitEvents s.cfg (encodeMsg s.cfg r s.deviceAddress s.messageSignature m n d) done armed ++
            [.wait 300, .lineSample false])).flatten ++
        [.raised (.deliveryFailure r (k + 1)), .response ⟨false, .deliveryFail, .nothing⟩] ∧
      (s.cfg.wf = true → attemptsIn s.cfg u.hist = attemptsIn s.cfg s.hist + (k + 1))

/-- R182, R187: the end of an attempt's poll cycle. With the mark set, POST_MESSAGE consumes it and succeeds. Without it the
attempt counter goes up; up to the bound the same frame is sent again, and above it the command fails. So a unicast POST_MESSAGE
that sees no ACK in `j` passes, `j` within the bound, and in the next one reads a burst of one ACK for this node from the
recipient, succeeds after exactly `j + 1` transmissions (R189). The radio answers each spin at the first read. -/
def Obligations.PassEndsInSuccessRetryOrFailure : Prop :=
  (∀ s ovf, s.resetPin = false → s.todo = [.endCycle .post ovf] → s.ackSeen = true →
    step s = .next { s with
      engState := .receiving, ackSeen := false, awaitValid := false, busy := false, todo := []
      rsp := some ⟨true, .ok, .nothing⟩, hist := s.hist ++ [.response ⟨true, .ok, .nothing⟩] }) ∧
  (∀ s ovf, s.resetPin = false → s.todo = [.endCycle .post ovf] → s.ackSeen = false →
    (s.latch.maxRetriesR < s.attempt + 1 →
      step s = .next { s with
        engState := .receiving, attempt := s.attempt + 1, awaitValid := false, busy := false, todo := []
        rsp := some ⟨false, .deliveryFail, .nothing⟩
        hist := s.hist ++ [.raised (.deliveryFailure s.latch.opRecipient (s.attempt + 1)),
          .response ⟨false, .deliveryFail, .nothing⟩] }) ∧
    (∀ B, s.attempt + 1 ≤ s.latch.maxRetriesR → memRead s .tx 0 s.txLen = .ok B →
      step s = .next { s with
        engState := .transmitting, attempt := s.attempt + 1, todo := transmitActs s.cfg B ++ [.afterTransmit] })) ∧
  ∀ s r m n d k j done armed b A x y more moreLine moreFifo, s.resetPin = false → s.fault = false → s.engState ≠ .idle →
    s.todo = [] → s.radioCompletes → s.cfg.wf = true → r ≠ 0 → d.length = 32 → n.toNat ≤ 32 → j ≤ k →
    awaitedState s .txDone done = true → awaitedState s .rxArmed armed = true →
    s.env.regs = (List.replicate (j + 1) [done, armed]).flatten ++ b :: more →
    s.env.line = List.replicate j false ++ true :: moreLine →
    s.cfg.rxCountDecode b = (false, 8) → A = encode s.cfg (.frameAck s.deviceAddress r s.messageSignature) →
    s.env.fifo = A ++ x :: y :: moreFifo →
    ∃ t u, exec (.postMessage r m n d k) s = .next t ∧ run (12 * j + 20) t = .next u ∧
      u.rsp = some ⟨true, .ok, .nothing⟩ ∧ u.busy = false ∧ u.engState = .receiving ∧ u.awaitValid = false ∧
      u.ackSeen = false ∧ u.attempt = j ∧ u.todo = [] ∧ queueContents u = queueContents s ∧
      u.hist = s.hist ++ [.accepted 3] ++
        (List.replicate j
          (transmitEvents s.cfg (encodeMsg s.cfg r s.deviceAddress s.messageSignature m n d) done armed ++
            [.wait 300, .lineSample false])).flatten ++
        transmitEvents s.cfg (encodeMsg s.cfg r s.deviceAddress s.messageSignature m n d) done armed ++
        [.wait 300, .lineSample true, .readReg s.cfg.radio.regRxbytes b,
          .readBurst s.cfg.radio.cmdRxfifo 8 (A ++ [x, y]), .response ⟨true, .ok, .nothing⟩] ∧
      attemptsIn s.cfg u.hist = attemptsIn s.cfg s.hist + (j + 1)

/-- R27, R184: nothing between attempts writes `txBuf`: only the acceptance of a command does. -/
def Obligations.TransmitBufferIsStableWithinACommand : Prop :=
  ∀ s t, ControlOk s → s.resetPin = false → s.todo ≠ [] → step s = .next t → t.txBuf = s.txBuf ∧ t.txLen = s.txLen

/-- R188, R13: WaitWindow is always enabled and changes no modelled state but the timer, which has run to zero. -/
def Obligations.WaitWindowOnlyWaits : Prop :=
  ∀ s rest, s.resetPin = false → s.todo = .wait :: rest →
    step s = .next { s with todo := rest, winTimer := 0, hist := s.hist ++ [.wait 300] }

/-! ## Whole-machine rules and invariants -/

/-- R29, R60: a write to a space changes no byte of another space, and in its own only the bytes written. -/
def Obligations.WritesDoNotAlias : Prop :=
  ∀ s t sp a bs, memWrite s sp a bs = .ok t →
    (∀ sp' x, sp' ≠ sp → readByte t sp' x = readByte s sp' x) ∧
    (∀ x, x < a ∨ a + bs.length ≤ x → readByte t sp x = readByte s sp x) ∧
    (∀ k, (h : k < bs.length) → readByte t sp (a + k) = some bs[k]) ∧
    t = s.setMemory sp (t.memory sp)

/-- R7, R15: no step changes the parameters. -/
def Obligations.StepKeepsTheParameters : Prop :=
  ∀ s t, step s = .next t → t.cfg = s.cfg

/-- R195: `engState` changes only as the transition table says. -/
def Obligations.EngineFollowsItsTransitions : Prop :=
  ∀ s t, ControlOk s → s.resetPin = false → step s = .next t → s.engState.mayFollow t.engState = true

/-- R245(g): nothing but a Push of a received frame, GET_MESSAGE and reset changes the queue. -/
def Obligations.OnlyPushAndPullChangeTheQueue : Prop :=
  ∀ s t, ControlOk s → s.resetPin = false → step s = .next t → (∀ page sd rest, s.todo ≠ .enqueue page sd :: rest) →
    (∀ record others, s.cmdPort = record :: others → s.todo = [] → decode s.cfg .cmd record ≠ .ok .getMessage) →
    t.pages = s.pages ∧ t.occupied = s.occupied ∧ t.nextLink = s.nextLink ∧ t.head = s.head ∧ t.tail = s.tail ∧
      t.count = s.count

/-- R76: the receive buffer changes only where a burst just read is stored. -/
def Obligations.ReceiveBufferIsStableWhileSplit : Prop :=
  ∀ s t, ControlOk s → s.resetPin = false → step s = .next t → t.rxBuf ≠ s.rxBuf → ∃ rest, s.todo = .storeBurst :: rest

/-- The canonical form and the bounds of every memory are kept by every step. -/
def Obligations.StepKeepsMemoryCanonical : Prop :=
  ∀ s t, MemoryOk s → step s = .next t → MemoryOk t

/-- R44, R30, R34 to R37, R21 and the others of `Good` together are kept by every step. -/
def Obligations.StepKeepsGood : Prop :=
  ∀ s t, Good s → step s = .next t → Good t

/-- The state after reset is good. -/
def Obligations.ResetIsGood : Prop := Good State.reset

/-- R65, R50: in a good state no access leaves its space or reads a byte that has no value: a step never faults. That a byte
nothing has written holds no value, and faults where it is read, is the model's choice (log 9). -/
def Obligations.GoodStatesNeverFault : Prop :=
  ∀ s f, Good s → step s ≠ .fault f

/-- R46, R30, R36, R37: the status outputs show the state: the count as a 5-bit number, the full and the empty queue, the code
of `engState`, `busy` (`cmd_ready` is its negation, R45) and `fault`. -/
def Obligations.StatusOutputsShowTheState : Prop :=
  ∀ s, QueueOk s →
    (s.qCount.toNat = s.count ∧ s.count = (queueContents s).length ∧ s.count ≤ 20) ∧
    (s.qFull = true ↔ s.count = 20) ∧ (s.qFull = true ↔ freePage s = none) ∧ (s.qEmpty = true ↔ queueContents s = []) ∧
    (s.engState = .idle → s.engStateOut = 0) ∧ (s.engState = .receiving → s.engStateOut = 1) ∧
    (s.engState = .transmitting → s.engStateOut = 2) ∧ (s.engState = .awaitingAck → s.engStateOut = 3) ∧
    s.busyOut = s.busy ∧ (s.cmdReady = true ↔ s.busy = false) ∧
    s.faultOut = (if s.cfg.spinLimit.isSome then some s.fault else none)
end

