-- ==== Sys2Proof/Laws/Encoding.lean ====
section
/-! SUPPORT. The fields of an encoding: tokens, naturals in bytes, lengths, and what `parseFrame` accepts. -/

namespace Sys2Proof

/-! ## Fields -/

theorem Half.mk_getLsbD (a b : Byte) (i : Nat) :
    (Half.mk a b).getLsbD i = if i < 8 then b.getLsbD i else a.getLsbD (i - 8) := BitVec.getLsbD_append

theorem Half.mk_hi_lo (h : Half) : Half.mk h.hi h.lo = h := by
  apply BitVec.eq_of_getLsbD_eq
  intro i hi
  rw [Half.mk_getLsbD]
  by_cases h8 : i < 8
  · simp [h8, Half.lo]
  · have e : 8 + (i - 8) = i := by omega
    have h2 : i - 8 < 8 := by omega
    simp [h8, Half.hi, e, h2]

theorem Half.lo_mk (a b : Byte) : (Half.mk a b).lo = b := by
  apply BitVec.eq_of_getLsbD_eq
  intro i hi
  rw [Half.lo, BitVec.getLsbD_extractLsb', Half.mk_getLsbD]
  simp [hi]

theorem Half.hi_mk (a b : Byte) : (Half.mk a b).hi = a := by
  apply BitVec.eq_of_getLsbD_eq
  intro i hi
  rw [Half.hi, BitVec.getLsbD_extractLsb', Half.mk_getLsbD]
  simp [hi]

/-- The token bytes read back as the token, in either order (R96). -/
@[simp] theorem tokenOf_tokenBytes (c : Config) (t : Half) : tokenOf c (tokenBytes c t).1 (tokenBytes c t).2 = t := by
  cases h : c.tokenLe <;> simp [tokenOf, tokenBytes, h, Half.mk_hi_lo]

@[simp] theorem tokenBytes_tokenOf (c : Config) (a b : Byte) : tokenBytes c (tokenOf c a b) = (a, b) := by
  cases h : c.tokenLe <;> simp [tokenOf, tokenBytes, h, Half.lo_mk, Half.hi_mk]

@[simp] theorem leBytes_length (k n : Nat) : (leBytes k n).length = k := by
  induction k generalizing n with
  | zero => rfl
  | succ k ih => simp [leBytes, ih]

theorem leNat_leBytes {k n : Nat} (h : n < 256 ^ k) : leNat (leBytes k n) = n := by
  induction k generalizing n with
  | zero => simp only [leBytes, leNat]; omega
  | succ k ih =>
    have : n / 256 < 256 ^ k := by
      rw [Nat.div_lt_iff_lt_mul (by omega)]; rwa [Nat.pow_succ] at h
    simp only [leBytes, leNat, ih this, BitVec.toNat_ofNat]
    omega

theorem leBytes_leNat (bs : Bytes) : leBytes bs.length (leNat bs) = bs := by
  induction bs with
  | nil => rfl
  | cons b bs ih =>
    have hb := b.isLt
    simp only [List.length_cons, leBytes, leNat]
    rw [show (b.toNat + 256 * leNat bs) / 256 = leNat bs by omega, ih]
    congr 1
    apply BitVec.eq_of_toNat_eq
    simp only [BitVec.toNat_ofNat]
    omega

/-- The bytes of the `maxRetries` operand hold every value of its width. -/
theorem lt_of_retries {c : Config} {n : Nat} (h : n < 2 ^ c.maxRetriesBits) : n < 256 ^ retryBytes c := by
  refine lt_of_lt_of_le h ?_
  rw [show (256 : Nat) = 2 ^ 8 by rfl, ← Nat.pow_mul]
  exact Nat.pow_le_pow_right (by omega) (by simp only [retryBytes]; omega)

/-! ## Frames -/

@[simp] theorem encodeAck_length (c : Config) (r s : Byte) (t : Half) : (encodeAck c r s t).length = 6 := rfl

theorem encodeMsg_length (c : Config) (r s : Byte) (t : Half) (m n : Byte) (d : Bytes) (h : n.toNat ≤ d.length) :
    (encodeMsg c r s t m n d).length = 8 + n.toNat := by
  simp [encodeMsg]; omega

theorem toNat_ofNat_length {d : Bytes} (h : d.length ≤ 32) : (BitVec.ofNat 8 d.length).toNat = d.length := by
  simp only [BitVec.toNat_ofNat]; omega

/-- What `parseFrame` accepts are the encodings of well-formed frames (R165); `L + 1` is the length of `F`. -/
theorem parseFrame_encode {c : Config} {i : Instr} (hc : c.ptAck ≠ c.ptMsg) (hf : i.format = .frame) (hw : i.wf c = true) :
    parseFrame c (encode c i) = .ok i := by
  cases i with
  | frameAck r s t =>
    simp [parseFrame, encode, encodeAck, lAck]
  | frameMsg r s t m d =>
    have hd : d.length ≤ 32 := of_decide_eq_true hw
    have h1 := toNat_ofNat_length hd
    have h2 : (BitVec.ofNat 8 (lMsg d.length)).toNat = 7 + d.length := by
      simp only [lMsg, BitVec.toNat_ofNat]; omega
    simp only [parseFrame, encode, encodeMsg, h1, List.cons_append, List.nil_append, List.getD_cons_zero, List.getD_cons_succ,
      tokenOf_tokenBytes, h2, dataMax, List.drop_succ_cons, List.drop_zero, List.take_length]
    rw [if_neg hc.symm, if_pos trivial, if_neg (by omega), if_neg (by omega), if_neg (by simp [lMsg])]
  | _ => simp [Instr.format] at hf

theorem encode_parseFrame {c : Config} {F : Bytes} {i : Instr} (hl : F.length = (F.getD 0 0).toNat + 1) (h5 : 5 ≤ (F.getD 0 0).toNat)
    (h : parseFrame c F = .ok i) : i.format = .frame ∧ i.wf c = true ∧ encode c i = F := by
  obtain ⟨b0, b1, b2, b3, b4, b5, rest, rfl⟩ : ∃ b0 b1 b2 b3 b4 b5 rest, F = b0 :: b1 :: b2 :: b3 :: b4 :: b5 :: rest := by
    match F, hl with
    | [], _ | [_], _ | [_, _], _ | [_, _, _], _ | [_, _, _, _], _ | [_, _, _, _, _], _ => simp at *; try omega
    | b0 :: b1 :: b2 :: b3 :: b4 :: b5 :: rest, _ => exact ⟨_, _, _, _, _, _, _, rfl⟩
  simp only [List.getD_cons_zero, List.length_cons] at hl h5
  simp only [parseFrame, List.getD_cons_zero, List.getD_cons_succ, List.drop_succ_cons, lAck, dataMax, lMsg] at h
  split at h
  · next ha =>
    split at h
    · simp at h
    · next hL =>
      obtain rfl : Instr.frameAck b1 b2 (tokenOf c b3 b4) = i := by simpa using h
      have : rest = [] := by
        apply List.eq_nil_of_length_eq_zero; omega
      subst this
      refine ⟨rfl, rfl, ?_⟩
      simp only [encode, encodeAck, tokenBytes_tokenOf, ← ha]
      congr 1
      apply BitVec.eq_of_toNat_eq
      simp; omega
  · split at h
    · next hm =>
      split at h
      · simp at h
      · split at h
        · simp at h
        · split at h
          · simp at h
          · next h7 h32 hL =>
            obtain ⟨m, n, d, rfl⟩ : ∃ m n d, rest = m :: n :: d := by
              match rest, hl with
              | [], _ | [_], _ => simp at *; try omega
              | m :: n :: d, _ => exact ⟨_, _, _, rfl⟩
            simp only [List.getD_cons_zero, List.getD_cons_succ, List.drop_succ_cons, List.drop_zero, List.length_cons] at h h32 hL hl
            have hd : d.length = n.toNat := by omega
            rw [← hd, List.take_length] at h
            obtain rfl : Instr.frameMsg b1 b2 (tokenOf c b3 b4) m d = i := by simpa using h
            refine ⟨rfl, decide_eq_true (by simp only [dataMax]; omega), ?_⟩
            have e : BitVec.ofNat 8 d.length = n := by apply BitVec.eq_of_toNat_eq; simp [hd]
            have e0 : BitVec.ofNat 8 (lMsg d.length) = b0 := by
              apply BitVec.eq_of_toNat_eq; simp only [lMsg, BitVec.toNat_ofNat]; omega
            simp only [encode, encodeMsg, e, e0, tokenBytes_tokenOf, ← hm, ← hd, List.take_length, List.cons_append, List.nil_append]
    · simp at h

/-- The first byte and the length of a frame (R94). -/
theorem encode_frame_length {c : Config} {i : Instr} (hf : i.format = .frame) (hw : i.wf c = true) :
    ∃ L rest, encode c i = L :: rest ∧ L.toNat = rest.length ∧ 5 ≤ rest.length ∧ rest.length ≤ 39 := by
  cases i with
  | frameAck r s t => exact ⟨_, _, rfl, rfl, by simp, by simp⟩
  | frameMsg r s t m d =>
    have hd : d.length ≤ 32 := of_decide_eq_true hw
    have h1 := toNat_ofNat_length hd
    have e : encode c (.frameMsg r s t m d) = BitVec.ofNat 8 (lMsg d.length) ::
        ([r, s, (tokenBytes c t).1, (tokenBytes c t).2, c.ptMsg, m, BitVec.ofNat 8 d.length] ++ d) := by
      simp only [encode, encodeMsg, h1, List.take_length, List.cons_append]
    refine ⟨_, _, e, ?_, ?_, ?_⟩
    · simp only [lMsg, BitVec.toNat_ofNat, List.nil_append, List.cons_append, List.length_cons]; omega
    · simp only [List.nil_append, List.cons_append, List.length_cons]; omega
    · simp only [List.nil_append, List.cons_append, List.length_cons]; omega
  | _ => simp [Instr.format] at hf

end Sys2Proof
end

