-- ==== Sys2Proof/Laws/State.lean ====
section
/-! SUPPORT. One lemma for each field under each update of State, true by rfl, so that no proof unfolds a record update. -/

namespace Sys2Proof.Machine

@[simp] theorem State.raise_eq (s : State) (e : Raised) : s.raise e = s.log (.raised e) := rfl
@[simp] theorem finish_eq (s : State) (ok : Bool) (code : RspCode) : finish s ok code = respond s ⟨ok, code, .nothing⟩ := rfl
@[simp] theorem refuse_eq (s : State) (code : RspCode) : refuse s code = respond s ⟨false, code, .nothing⟩ := rfl
@[simp] theorem fail_eq (s : State) (e : Raised) (code : RspCode) :
    fail s e code = respond (s.log (.raised e)) ⟨false, code, .nothing⟩ := rfl

/-! ## The events of R260 a history shows -/

/-- What a history shows from an acceptance on depends on the acceptance only. -/
@[simp] theorem eventsFrom_append_accepted (op op' : BitVec 3) (h g : List Event) :
    eventsFrom op (h ++ .accepted op' :: g) = eventsFrom op h ++ eventsFrom op' g := by
  induction h generalizing op with
  | nil => rfl
  | cons e h ih => cases e <;> simp [eventsFrom, ih]

@[simp] theorem eventsFrom_raised (op : BitVec 3) (e : Raised) (h : List Event) :
    eventsFrom op (.raised e :: h) = e :: eventsFrom op h := rfl
@[simp] theorem eventsFrom_response (op : BitVec 3) (r : Rsp) (h : List Event) :
    eventsFrom op (.response r :: h) = (refusalEvent op r.code).toList ++ eventsFrom op h := rfl
@[simp] theorem eventsFrom_nil (op : BitVec 3) : eventsFrom op [] = [] := rfl

/-! ## log -/

@[simp] theorem State.log_cfg (s : State) (e : Event) : (s.log e).cfg = s.cfg := rfl
@[simp] theorem State.log_env (s : State) (e : Event) : (s.log e).env = s.env := rfl
@[simp] theorem State.log_tick (s : State) (e : Event) : (s.log e).tick = s.tick := rfl
@[simp] theorem State.log_cmdPort (s : State) (e : Event) : (s.log e).cmdPort = s.cmdPort := rfl
@[simp] theorem State.log_resetPin (s : State) (e : Event) : (s.log e).resetPin = s.resetPin := rfl
@[simp] theorem State.log_rsp (s : State) (e : Event) : (s.log e).rsp = s.rsp := rfl
@[simp] theorem State.log_hist (s : State) (e : Event) : (s.log e).hist = s.hist ++ [e] := rfl
@[simp] theorem State.log_todo (s : State) (e : Event) : (s.log e).todo = s.todo := rfl
@[simp] theorem State.log_rdData (s : State) (e : Event) : (s.log e).rdData = s.rdData := rfl
@[simp] theorem State.log_rdBurst (s : State) (e : Event) : (s.log e).rdBurst = s.rdBurst := rfl
@[simp] theorem State.log_deviceAddress (s : State) (e : Event) : (s.log e).deviceAddress = s.deviceAddress := rfl
@[simp] theorem State.log_messageSignature (s : State) (e : Event) :
    (s.log e).messageSignature = s.messageSignature := rfl
@[simp] theorem State.log_outputPower (s : State) (e : Event) : (s.log e).outputPower = s.outputPower := rfl
@[simp] theorem State.log_latch (s : State) (e : Event) : (s.log e).latch = s.latch := rfl
@[simp] theorem State.log_opData (s : State) (e : Event) : (s.log e).opData = s.opData := rfl
@[simp] theorem State.log_rxBuf (s : State) (e : Event) : (s.log e).rxBuf = s.rxBuf := rfl
@[simp] theorem State.log_rxLen (s : State) (e : Event) : (s.log e).rxLen = s.rxLen := rfl
@[simp] theorem State.log_txBuf (s : State) (e : Event) : (s.log e).txBuf = s.txBuf := rfl
@[simp] theorem State.log_txLen (s : State) (e : Event) : (s.log e).txLen = s.txLen := rfl
@[simp] theorem State.log_ackBuf (s : State) (e : Event) : (s.log e).ackBuf = s.ackBuf := rfl
@[simp] theorem State.log_engState (s : State) (e : Event) : (s.log e).engState = s.engState := rfl
@[simp] theorem State.log_attempt (s : State) (e : Event) : (s.log e).attempt = s.attempt := rfl
@[simp] theorem State.log_rxOff (s : State) (e : Event) : (s.log e).rxOff = s.rxOff := rfl
@[simp] theorem State.log_rxRem (s : State) (e : Event) : (s.log e).rxRem = s.rxRem := rfl
@[simp] theorem State.log_ackSeen (s : State) (e : Event) : (s.log e).ackSeen = s.ackSeen := rfl
@[simp] theorem State.log_awaitValid (s : State) (e : Event) : (s.log e).awaitValid = s.awaitValid := rfl
@[simp] theorem State.log_awaitAddr (s : State) (e : Event) : (s.log e).awaitAddr = s.awaitAddr := rfl
@[simp] theorem State.log_busy (s : State) (e : Event) : (s.log e).busy = s.busy := rfl
@[simp] theorem State.log_fault (s : State) (e : Event) : (s.log e).fault = s.fault := rfl
@[simp] theorem State.log_spinCount (s : State) (e : Event) : (s.log e).spinCount = s.spinCount := rfl
@[simp] theorem State.log_winTimer (s : State) (e : Event) : (s.log e).winTimer = s.winTimer := rfl
@[simp] theorem State.log_pages (s : State) (e : Event) : (s.log e).pages = s.pages := rfl
@[simp] theorem State.log_occupied (s : State) (e : Event) : (s.log e).occupied = s.occupied := rfl
@[simp] theorem State.log_nextLink (s : State) (e : Event) : (s.log e).nextLink = s.nextLink := rfl
@[simp] theorem State.log_head (s : State) (e : Event) : (s.log e).head = s.head := rfl
@[simp] theorem State.log_tail (s : State) (e : Event) : (s.log e).tail = s.tail := rfl
@[simp] theorem State.log_count (s : State) (e : Event) : (s.log e).count = s.count := rfl

/-! ## plan -/

@[simp] theorem State.plan_cfg (s : State) (acts : List Act) : (s.plan acts).cfg = s.cfg := rfl
@[simp] theorem State.plan_env (s : State) (acts : List Act) : (s.plan acts).env = s.env := rfl
@[simp] theorem State.plan_tick (s : State) (acts : List Act) : (s.plan acts).tick = s.tick := rfl
@[simp] theorem State.plan_cmdPort (s : State) (acts : List Act) : (s.plan acts).cmdPort = s.cmdPort := rfl
@[simp] theorem State.plan_resetPin (s : State) (acts : List Act) : (s.plan acts).resetPin = s.resetPin := rfl
@[simp] theorem State.plan_rsp (s : State) (acts : List Act) : (s.plan acts).rsp = s.rsp := rfl
@[simp] theorem State.plan_hist (s : State) (acts : List Act) : (s.plan acts).hist = s.hist := rfl
@[simp] theorem State.plan_todo (s : State) (acts : List Act) : (s.plan acts).todo = acts ++ s.todo := rfl
@[simp] theorem State.plan_rdData (s : State) (acts : List Act) : (s.plan acts).rdData = s.rdData := rfl
@[simp] theorem State.plan_rdBurst (s : State) (acts : List Act) : (s.plan acts).rdBurst = s.rdBurst := rfl
@[simp] theorem State.plan_deviceAddress (s : State) (acts : List Act) :
    (s.plan acts).deviceAddress = s.deviceAddress := rfl
@[simp] theorem State.plan_messageSignature (s : State) (acts : List Act) :
    (s.plan acts).messageSignature = s.messageSignature := rfl
@[simp] theorem State.plan_outputPower (s : State) (acts : List Act) :
    (s.plan acts).outputPower = s.outputPower := rfl
@[simp] theorem State.plan_latch (s : State) (acts : List Act) : (s.plan acts).latch = s.latch := rfl
@[simp] theorem State.plan_opData (s : State) (acts : List Act) : (s.plan acts).opData = s.opData := rfl
@[simp] theorem State.plan_rxBuf (s : State) (acts : List Act) : (s.plan acts).rxBuf = s.rxBuf := rfl
@[simp] theorem State.plan_rxLen (s : State) (acts : List Act) : (s.plan acts).rxLen = s.rxLen := rfl
@[simp] theorem State.plan_txBuf (s : State) (acts : List Act) : (s.plan acts).txBuf = s.txBuf := rfl
@[simp] theorem State.plan_txLen (s : State) (acts : List Act) : (s.plan acts).txLen = s.txLen := rfl
@[simp] theorem State.plan_ackBuf (s : State) (acts : List Act) : (s.plan acts).ackBuf = s.ackBuf := rfl
@[simp] theorem State.plan_engState (s : State) (acts : List Act) : (s.plan acts).engState = s.engState := rfl
@[simp] theorem State.plan_attempt (s : State) (acts : List Act) : (s.plan acts).attempt = s.attempt := rfl
@[simp] theorem State.plan_rxOff (s : State) (acts : List Act) : (s.plan acts).rxOff = s.rxOff := rfl
@[simp] theorem State.plan_rxRem (s : State) (acts : List Act) : (s.plan acts).rxRem = s.rxRem := rfl
@[simp] theorem State.plan_ackSeen (s : State) (acts : List Act) : (s.plan acts).ackSeen = s.ackSeen := rfl
@[simp] theorem State.plan_awaitValid (s : State) (acts : List Act) : (s.plan acts).awaitValid = s.awaitValid := rfl
@[simp] theorem State.plan_awaitAddr (s : State) (acts : List Act) : (s.plan acts).awaitAddr = s.awaitAddr := rfl
@[simp] theorem State.plan_busy (s : State) (acts : List Act) : (s.plan acts).busy = s.busy := rfl
@[simp] theorem State.plan_fault (s : State) (acts : List Act) : (s.plan acts).fault = s.fault := rfl
@[simp] theorem State.plan_spinCount (s : State) (acts : List Act) : (s.plan acts).spinCount = s.spinCount := rfl
@[simp] theorem State.plan_winTimer (s : State) (acts : List Act) : (s.plan acts).winTimer = s.winTimer := rfl
@[simp] theorem State.plan_pages (s : State) (acts : List Act) : (s.plan acts).pages = s.pages := rfl
@[simp] theorem State.plan_occupied (s : State) (acts : List Act) : (s.plan acts).occupied = s.occupied := rfl
@[simp] theorem State.plan_nextLink (s : State) (acts : List Act) : (s.plan acts).nextLink = s.nextLink := rfl
@[simp] theorem State.plan_head (s : State) (acts : List Act) : (s.plan acts).head = s.head := rfl
@[simp] theorem State.plan_tail (s : State) (acts : List Act) : (s.plan acts).tail = s.tail := rfl
@[simp] theorem State.plan_count (s : State) (acts : List Act) : (s.plan acts).count = s.count := rfl

/-! ## enter -/

@[simp] theorem State.enter_cfg (s : State) (e : EngState) : (s.enter e).cfg = s.cfg := rfl
@[simp] theorem State.enter_env (s : State) (e : EngState) : (s.enter e).env = s.env := rfl
@[simp] theorem State.enter_tick (s : State) (e : EngState) : (s.enter e).tick = s.tick := rfl
@[simp] theorem State.enter_cmdPort (s : State) (e : EngState) : (s.enter e).cmdPort = s.cmdPort := rfl
@[simp] theorem State.enter_resetPin (s : State) (e : EngState) : (s.enter e).resetPin = s.resetPin := rfl
@[simp] theorem State.enter_rsp (s : State) (e : EngState) : (s.enter e).rsp = s.rsp := rfl
@[simp] theorem State.enter_hist (s : State) (e : EngState) : (s.enter e).hist = s.hist := rfl
@[simp] theorem State.enter_todo (s : State) (e : EngState) : (s.enter e).todo = s.todo := rfl
@[simp] theorem State.enter_rdData (s : State) (e : EngState) : (s.enter e).rdData = s.rdData := rfl
@[simp] theorem State.enter_rdBurst (s : State) (e : EngState) : (s.enter e).rdBurst = s.rdBurst := rfl
@[simp] theorem State.enter_deviceAddress (s : State) (e : EngState) :
    (s.enter e).deviceAddress = s.deviceAddress := rfl
@[simp] theorem State.enter_messageSignature (s : State) (e : EngState) :
    (s.enter e).messageSignature = s.messageSignature := rfl
@[simp] theorem State.enter_outputPower (s : State) (e : EngState) : (s.enter e).outputPower = s.outputPower := rfl
@[simp] theorem State.enter_latch (s : State) (e : EngState) : (s.enter e).latch = s.latch := rfl
@[simp] theorem State.enter_opData (s : State) (e : EngState) : (s.enter e).opData = s.opData := rfl
@[simp] theorem State.enter_rxBuf (s : State) (e : EngState) : (s.enter e).rxBuf = s.rxBuf := rfl
@[simp] theorem State.enter_rxLen (s : State) (e : EngState) : (s.enter e).rxLen = s.rxLen := rfl
@[simp] theorem State.enter_txBuf (s : State) (e : EngState) : (s.enter e).txBuf = s.txBuf := rfl
@[simp] theorem State.enter_txLen (s : State) (e : EngState) : (s.enter e).txLen = s.txLen := rfl
@[simp] theorem State.enter_ackBuf (s : State) (e : EngState) : (s.enter e).ackBuf = s.ackBuf := rfl
@[simp] theorem State.enter_engState (s : State) (e : EngState) : (s.enter e).engState = e := rfl
@[simp] theorem State.enter_attempt (s : State) (e : EngState) : (s.enter e).attempt = s.attempt := rfl
@[simp] theorem State.enter_rxOff (s : State) (e : EngState) : (s.enter e).rxOff = s.rxOff := rfl
@[simp] theorem State.enter_rxRem (s : State) (e : EngState) : (s.enter e).rxRem = s.rxRem := rfl
@[simp] theorem State.enter_ackSeen (s : State) (e : EngState) : (s.enter e).ackSeen = s.ackSeen := rfl
@[simp] theorem State.enter_awaitValid (s : State) (e : EngState) : (s.enter e).awaitValid = s.awaitValid := rfl
@[simp] theorem State.enter_awaitAddr (s : State) (e : EngState) : (s.enter e).awaitAddr = s.awaitAddr := rfl
@[simp] theorem State.enter_busy (s : State) (e : EngState) : (s.enter e).busy = s.busy := rfl
@[simp] theorem State.enter_fault (s : State) (e : EngState) : (s.enter e).fault = s.fault := rfl
@[simp] theorem State.enter_spinCount (s : State) (e : EngState) : (s.enter e).spinCount = s.spinCount := rfl
@[simp] theorem State.enter_winTimer (s : State) (e : EngState) : (s.enter e).winTimer = s.winTimer := rfl
@[simp] theorem State.enter_pages (s : State) (e : EngState) : (s.enter e).pages = s.pages := rfl
@[simp] theorem State.enter_occupied (s : State) (e : EngState) : (s.enter e).occupied = s.occupied := rfl
@[simp] theorem State.enter_nextLink (s : State) (e : EngState) : (s.enter e).nextLink = s.nextLink := rfl
@[simp] theorem State.enter_head (s : State) (e : EngState) : (s.enter e).head = s.head := rfl
@[simp] theorem State.enter_tail (s : State) (e : EngState) : (s.enter e).tail = s.tail := rfl
@[simp] theorem State.enter_count (s : State) (e : EngState) : (s.enter e).count = s.count := rfl

/-! ## accept -/

@[simp] theorem accept_cfg (s : State) (l : Latches) (data : Memory) : (accept s l data).cfg = s.cfg := rfl
@[simp] theorem accept_env (s : State) (l : Latches) (data : Memory) : (accept s l data).env = s.env := rfl
@[simp] theorem accept_tick (s : State) (l : Latches) (data : Memory) : (accept s l data).tick = s.tick + 1 := rfl
@[simp] theorem accept_cmdPort (s : State) (l : Latches) (data : Memory) :
    (accept s l data).cmdPort = s.cmdPort := rfl
@[simp] theorem accept_resetPin (s : State) (l : Latches) (data : Memory) :
    (accept s l data).resetPin = s.resetPin := rfl
@[simp] theorem accept_rsp (s : State) (l : Latches) (data : Memory) : (accept s l data).rsp = none := rfl
@[simp] theorem accept_hist (s : State) (l : Latches) (data : Memory) :
    (accept s l data).hist = s.hist ++ [.accepted l.opCode] := rfl
@[simp] theorem accept_todo (s : State) (l : Latches) (data : Memory) : (accept s l data).todo = s.todo := rfl
@[simp] theorem accept_rdData (s : State) (l : Latches) (data : Memory) : (accept s l data).rdData = s.rdData := rfl
@[simp] theorem accept_rdBurst (s : State) (l : Latches) (data : Memory) :
    (accept s l data).rdBurst = s.rdBurst := rfl
@[simp] theorem accept_deviceAddress (s : State) (l : Latches) (data : Memory) :
    (accept s l data).deviceAddress = s.deviceAddress := rfl
@[simp] theorem accept_messageSignature (s : State) (l : Latches) (data : Memory) :
    (accept s l data).messageSignature = s.messageSignature := rfl
@[simp] theorem accept_outputPower (s : State) (l : Latches) (data : Memory) :
    (accept s l data).outputPower = s.outputPower := rfl
@[simp] theorem accept_latch (s : State) (l : Latches) (data : Memory) : (accept s l data).latch = l := rfl
@[simp] theorem accept_opData (s : State) (l : Latches) (data : Memory) : (accept s l data).opData = data := rfl
@[simp] theorem accept_rxBuf (s : State) (l : Latches) (data : Memory) : (accept s l data).rxBuf = s.rxBuf := rfl
@[simp] theorem accept_rxLen (s : State) (l : Latches) (data : Memory) : (accept s l data).rxLen = s.rxLen := rfl
@[simp] theorem accept_txBuf (s : State) (l : Latches) (data : Memory) : (accept s l data).txBuf = s.txBuf := rfl
@[simp] theorem accept_txLen (s : State) (l : Latches) (data : Memory) : (accept s l data).txLen = s.txLen := rfl
@[simp] theorem accept_ackBuf (s : State) (l : Latches) (data : Memory) : (accept s l data).ackBuf = s.ackBuf := rfl
@[simp] theorem accept_engState (s : State) (l : Latches) (data : Memory) :
    (accept s l data).engState = s.engState := rfl
@[simp] theorem accept_attempt (s : State) (l : Latches) (data : Memory) :
    (accept s l data).attempt = s.attempt := rfl
@[simp] theorem accept_rxOff (s : State) (l : Latches) (data : Memory) : (accept s l data).rxOff = s.rxOff := rfl
@[simp] theorem accept_rxRem (s : State) (l : Latches) (data : Memory) : (accept s l data).rxRem = s.rxRem := rfl
@[simp] theorem accept_ackSeen (s : State) (l : Latches) (data : Memory) :
    (accept s l data).ackSeen = s.ackSeen := rfl
@[simp] theorem accept_awaitValid (s : State) (l : Latches) (data : Memory) :
    (accept s l data).awaitValid = s.awaitValid := rfl
@[simp] theorem accept_awaitAddr (s : State) (l : Latches) (data : Memory) :
    (accept s l data).awaitAddr = s.awaitAddr := rfl
@[simp] theorem accept_busy (s : State) (l : Latches) (data : Memory) : (accept s l data).busy = true := rfl
@[simp] theorem accept_fault (s : State) (l : Latches) (data : Memory) : (accept s l data).fault = s.fault := rfl
@[simp] theorem accept_spinCount (s : State) (l : Latches) (data : Memory) :
    (accept s l data).spinCount = s.spinCount := rfl
@[simp] theorem accept_winTimer (s : State) (l : Latches) (data : Memory) :
    (accept s l data).winTimer = s.winTimer := rfl
@[simp] theorem accept_pages (s : State) (l : Latches) (data : Memory) : (accept s l data).pages = s.pages := rfl
@[simp] theorem accept_occupied (s : State) (l : Latches) (data : Memory) :
    (accept s l data).occupied = s.occupied := rfl
@[simp] theorem accept_nextLink (s : State) (l : Latches) (data : Memory) :
    (accept s l data).nextLink = s.nextLink := rfl
@[simp] theorem accept_head (s : State) (l : Latches) (data : Memory) : (accept s l data).head = s.head := rfl
@[simp] theorem accept_tail (s : State) (l : Latches) (data : Memory) : (accept s l data).tail = s.tail := rfl
@[simp] theorem accept_count (s : State) (l : Latches) (data : Memory) : (accept s l data).count = s.count := rfl

/-! ## respond -/

@[simp] theorem respond_cfg (s : State) (r : Rsp) : (respond s r).cfg = s.cfg := rfl
@[simp] theorem respond_env (s : State) (r : Rsp) : (respond s r).env = s.env := rfl
@[simp] theorem respond_tick (s : State) (r : Rsp) : (respond s r).tick = s.tick := rfl
@[simp] theorem respond_cmdPort (s : State) (r : Rsp) : (respond s r).cmdPort = s.cmdPort := rfl
@[simp] theorem respond_resetPin (s : State) (r : Rsp) : (respond s r).resetPin = s.resetPin := rfl
@[simp] theorem respond_rsp (s : State) (r : Rsp) : (respond s r).rsp = some r := rfl
@[simp] theorem respond_hist (s : State) (r : Rsp) : (respond s r).hist = s.hist ++ [.response r] := rfl
@[simp] theorem respond_todo (s : State) (r : Rsp) : (respond s r).todo = [] := rfl
@[simp] theorem respond_rdData (s : State) (r : Rsp) : (respond s r).rdData = s.rdData := rfl
@[simp] theorem respond_rdBurst (s : State) (r : Rsp) : (respond s r).rdBurst = s.rdBurst := rfl
@[simp] theorem respond_deviceAddress (s : State) (r : Rsp) : (respond s r).deviceAddress = s.deviceAddress := rfl
@[simp] theorem respond_messageSignature (s : State) (r : Rsp) :
    (respond s r).messageSignature = s.messageSignature := rfl
@[simp] theorem respond_outputPower (s : State) (r : Rsp) : (respond s r).outputPower = s.outputPower := rfl
@[simp] theorem respond_latch (s : State) (r : Rsp) : (respond s r).latch = s.latch := rfl
@[simp] theorem respond_opData (s : State) (r : Rsp) : (respond s r).opData = s.opData := rfl
@[simp] theorem respond_rxBuf (s : State) (r : Rsp) : (respond s r).rxBuf = s.rxBuf := rfl
@[simp] theorem respond_rxLen (s : State) (r : Rsp) : (respond s r).rxLen = s.rxLen := rfl
@[simp] theorem respond_txBuf (s : State) (r : Rsp) : (respond s r).txBuf = s.txBuf := rfl
@[simp] theorem respond_txLen (s : State) (r : Rsp) : (respond s r).txLen = s.txLen := rfl
@[simp] theorem respond_ackBuf (s : State) (r : Rsp) : (respond s r).ackBuf = s.ackBuf := rfl
@[simp] theorem respond_engState (s : State) (r : Rsp) : (respond s r).engState = s.engState := rfl
@[simp] theorem respond_attempt (s : State) (r : Rsp) : (respond s r).attempt = s.attempt := rfl
@[simp] theorem respond_rxOff (s : State) (r : Rsp) : (respond s r).rxOff = s.rxOff := rfl
@[simp] theorem respond_rxRem (s : State) (r : Rsp) : (respond s r).rxRem = s.rxRem := rfl
@[simp] theorem respond_ackSeen (s : State) (r : Rsp) : (respond s r).ackSeen = s.ackSeen := rfl
@[simp] theorem respond_awaitValid (s : State) (r : Rsp) : (respond s r).awaitValid = s.awaitValid := rfl
@[simp] theorem respond_awaitAddr (s : State) (r : Rsp) : (respond s r).awaitAddr = s.awaitAddr := rfl
@[simp] theorem respond_busy (s : State) (r : Rsp) : (respond s r).busy = false := rfl
@[simp] theorem respond_fault (s : State) (r : Rsp) : (respond s r).fault = s.fault := rfl
@[simp] theorem respond_spinCount (s : State) (r : Rsp) : (respond s r).spinCount = s.spinCount := rfl
@[simp] theorem respond_winTimer (s : State) (r : Rsp) : (respond s r).winTimer = s.winTimer := rfl
@[simp] theorem respond_pages (s : State) (r : Rsp) : (respond s r).pages = s.pages := rfl
@[simp] theorem respond_occupied (s : State) (r : Rsp) : (respond s r).occupied = s.occupied := rfl
@[simp] theorem respond_nextLink (s : State) (r : Rsp) : (respond s r).nextLink = s.nextLink := rfl
@[simp] theorem respond_head (s : State) (r : Rsp) : (respond s r).head = s.head := rfl
@[simp] theorem respond_tail (s : State) (r : Rsp) : (respond s r).tail = s.tail := rfl
@[simp] theorem respond_count (s : State) (r : Rsp) : (respond s r).count = s.count := rfl

/-! ## countCompletion -/

@[simp] theorem countCompletion_cfg (s : State) : (countCompletion s).cfg = s.cfg := rfl
@[simp] theorem countCompletion_env (s : State) :
    (countCompletion s).env = { s.env with completions := s.env.completions.map (· - 1) } := rfl
@[simp] theorem countCompletion_tick (s : State) : (countCompletion s).tick = s.tick := rfl
@[simp] theorem countCompletion_cmdPort (s : State) : (countCompletion s).cmdPort = s.cmdPort := rfl
@[simp] theorem countCompletion_resetPin (s : State) : (countCompletion s).resetPin = s.resetPin := rfl
@[simp] theorem countCompletion_rsp (s : State) : (countCompletion s).rsp = s.rsp := rfl
@[simp] theorem countCompletion_hist (s : State) : (countCompletion s).hist = s.hist := rfl
@[simp] theorem countCompletion_todo (s : State) : (countCompletion s).todo = s.todo := rfl
@[simp] theorem countCompletion_rdData (s : State) : (countCompletion s).rdData = s.rdData := rfl
@[simp] theorem countCompletion_rdBurst (s : State) : (countCompletion s).rdBurst = s.rdBurst := rfl
@[simp] theorem countCompletion_deviceAddress (s : State) : (countCompletion s).deviceAddress = s.deviceAddress := rfl
@[simp] theorem countCompletion_messageSignature (s : State) :
    (countCompletion s).messageSignature = s.messageSignature := rfl
@[simp] theorem countCompletion_outputPower (s : State) : (countCompletion s).outputPower = s.outputPower := rfl
@[simp] theorem countCompletion_latch (s : State) : (countCompletion s).latch = s.latch := rfl
@[simp] theorem countCompletion_opData (s : State) : (countCompletion s).opData = s.opData := rfl
@[simp] theorem countCompletion_rxBuf (s : State) : (countCompletion s).rxBuf = s.rxBuf := rfl
@[simp] theorem countCompletion_rxLen (s : State) : (countCompletion s).rxLen = s.rxLen := rfl
@[simp] theorem countCompletion_txBuf (s : State) : (countCompletion s).txBuf = s.txBuf := rfl
@[simp] theorem countCompletion_txLen (s : State) : (countCompletion s).txLen = s.txLen := rfl
@[simp] theorem countCompletion_ackBuf (s : State) : (countCompletion s).ackBuf = s.ackBuf := rfl
@[simp] theorem countCompletion_engState (s : State) : (countCompletion s).engState = s.engState := rfl
@[simp] theorem countCompletion_attempt (s : State) : (countCompletion s).attempt = s.attempt := rfl
@[simp] theorem countCompletion_rxOff (s : State) : (countCompletion s).rxOff = s.rxOff := rfl
@[simp] theorem countCompletion_rxRem (s : State) : (countCompletion s).rxRem = s.rxRem := rfl
@[simp] theorem countCompletion_ackSeen (s : State) : (countCompletion s).ackSeen = s.ackSeen := rfl
@[simp] theorem countCompletion_awaitValid (s : State) : (countCompletion s).awaitValid = s.awaitValid := rfl
@[simp] theorem countCompletion_awaitAddr (s : State) : (countCompletion s).awaitAddr = s.awaitAddr := rfl
@[simp] theorem countCompletion_busy (s : State) : (countCompletion s).busy = s.busy := rfl
@[simp] theorem countCompletion_fault (s : State) : (countCompletion s).fault = s.fault := rfl
@[simp] theorem countCompletion_spinCount (s : State) : (countCompletion s).spinCount = s.spinCount := rfl
@[simp] theorem countCompletion_winTimer (s : State) : (countCompletion s).winTimer = s.winTimer := rfl
@[simp] theorem countCompletion_pages (s : State) : (countCompletion s).pages = s.pages := rfl
@[simp] theorem countCompletion_occupied (s : State) : (countCompletion s).occupied = s.occupied := rfl
@[simp] theorem countCompletion_nextLink (s : State) : (countCompletion s).nextLink = s.nextLink := rfl
@[simp] theorem countCompletion_head (s : State) : (countCompletion s).head = s.head := rfl
@[simp] theorem countCompletion_tail (s : State) : (countCompletion s).tail = s.tail := rfl
@[simp] theorem countCompletion_count (s : State) : (countCompletion s).count = s.count := rfl

end Sys2Proof.Machine
end

