-- ==== Sys2Proof/Laws/Memory.lean ====
section
/-! SUPPORT. What the memory operations do: reads after writes, the canonical form, bounds, and what `memRead` and `memWrite`
answer. -/

namespace Sys2Proof.Machine

/-! ## One byte -/

theorem Memory.lookup_insert (m : Memory) (a x : Nat) (v : Byte) :
    (m.insert a v).lookup x = if x = a then some v else m.lookup x := by
  induction m with
  | nil => simp [Memory.insert, Memory.lookup, eq_comm]
  | cons c m ih =>
    obtain ⟨k, b⟩ := c
    simp only [Memory.insert]
    split
    · simp only [Memory.lookup]; grind
    · split
      · simp only [Memory.lookup]; grind
      · simp only [Memory.lookup, ih]; grind

theorem Memory.mem_insert {m : Memory} {a : Nat} {v : Byte} {c : Host.Cell} (h : c ∈ m.insert a v) :
    c = (a, v) ∨ c ∈ m := by
  induction m with
  | nil => simpa [Memory.insert] using h
  | cons d m ih =>
    obtain ⟨k, b⟩ := d
    simp only [Memory.insert] at h
    split at h
    · simpa using h
    · split at h
      · simp only [List.mem_cons] at h ⊢; tauto
      · rcases List.mem_cons.mp h with h | h
        · simp [h]
        · rcases ih h with h | h <;> simp [h]

theorem Memory.wf_cons {k : Nat} {b : Byte} {m : Memory} :
    Memory.wf ((k, b) :: m) = true ↔ (∀ c ∈ m, k < c.1) ∧ Memory.wf m = true := by
  induction m generalizing k b with
  | nil => simp [Memory.wf]
  | cons d m ih =>
    obtain ⟨j, e⟩ := d
    simp only [Memory.wf, Bool.and_eq_true, decide_eq_true_eq, ih, List.mem_cons, forall_eq_or_imp]
    constructor
    · rintro ⟨h1, h2, h3⟩
      exact ⟨⟨h1, fun c hc => lt_trans h1 (h2 c hc)⟩, h2, h3⟩
    · rintro ⟨⟨h1, -⟩, h2, h3⟩
      exact ⟨h1, h2, h3⟩

theorem Memory.wf_insert {m : Memory} (h : Memory.wf m = true) (a : Nat) (v : Byte) : Memory.wf (m.insert a v) = true := by
  induction m with
  | nil => rfl
  | cons d m ih =>
    obtain ⟨k, b⟩ := d
    obtain ⟨hk, hm⟩ := Memory.wf_cons.mp h
    simp only [Memory.insert]
    split
    · next hlt =>
      refine Memory.wf_cons.mpr ⟨?_, h⟩
      intro c hc
      rcases List.mem_cons.mp hc with rfl | hc
      · exact hlt
      · exact lt_trans hlt (hk c hc)
    · split
      · next heq => subst heq; exact Memory.wf_cons.mpr ⟨hk, hm⟩
      · next h1 h2 =>
        refine Memory.wf_cons.mpr ⟨?_, ih hm⟩
        intro c hc
        rcases Memory.mem_insert hc with rfl | hc
        · simp only; omega
        · exact hk c hc

/-! ## Consecutive bytes -/

theorem Memory.lookup_store (m : Memory) (a x : Nat) (bs : Bytes) :
    (m.store a bs).lookup x = if a ≤ x ∧ x < a + bs.length then bs[x - a]? else m.lookup x := by
  induction bs generalizing m a with
  | nil => simp only [Memory.store, List.length_nil]; rw [if_neg (by omega)]
  | cons b bs ih =>
    simp only [Memory.store, ih, Memory.lookup_insert, List.length_cons]
    by_cases h1 : x = a
    · subst h1; simp
    · by_cases h2 : a + 1 ≤ x ∧ x < a + 1 + bs.length
      · rw [if_pos h2, if_pos (by omega)]
        obtain ⟨k, hk⟩ : ∃ k, x - a = k + 1 := ⟨x - a - 1, by omega⟩
        rw [hk, List.getElem?_cons_succ]
        congr 1
        omega
      · rw [if_neg h2, if_neg h1, if_neg (by omega)]

theorem Memory.wf_store {m : Memory} (h : Memory.wf m = true) (a : Nat) (bs : Bytes) : Memory.wf (m.store a bs) = true := by
  induction bs generalizing m a with
  | nil => exact h
  | cons b bs ih => exact ih (Memory.wf_insert h a b) (a + 1)

theorem Memory.mem_store {m : Memory} {a : Nat} {bs : Bytes} {c : Host.Cell} (h : c ∈ m.store a bs) :
    c ∈ m ∨ (a ≤ c.1 ∧ c.1 < a + bs.length) := by
  induction bs generalizing m a with
  | nil => exact .inl h
  | cons b bs ih =>
    rcases ih h with h | ⟨h1, h2⟩
    · rcases Memory.mem_insert h with rfl | h
      · right; simp
      · exact .inl h
    · right; simp only [List.length_cons]; omega

/-! ## The memories of a state -/

@[simp] theorem State.memory_setMemory_same (s : State) (sp : Space) (m : Memory) : (s.setMemory sp m).memory sp = m := by
  cases sp <;> rfl

@[simp] theorem State.setMemory_cfg (s : State) (sp : Space) (m : Memory) : (s.setMemory sp m).cfg = s.cfg := by
  cases sp <;> rfl

/-- Two spaces share a memory only when both are pages. -/
theorem State.memory_setMemory_other (s : State) {sp sp' : Space} (m : Memory)
    (h : sp' ≠ sp) (hp : ∀ p q, ¬ (sp = .page p ∧ sp' = .page q)) : (s.setMemory sp m).memory sp' = s.memory sp' := by
  cases sp <;> cases sp' <;> simp_all [State.setMemory, State.memory]

theorem Space.size_page {c : Config} {p a : Nat} (h : a < (Space.page p).size c) : p < 20 ∧ a < 40 := by
  by_cases hp : p < 20 <;> simp [Space.size, queuePages, pageBytes, hp] at h
  exact ⟨hp, h⟩

/-- A byte read gives, inside the space. -/
theorem readByte_eq {s : State} {sp : Space} {a : Nat} (h : a < sp.size s.cfg) :
    readByte s sp a = (s.memory sp).lookup (sp.base + a) := by simp [readByte, h]

theorem readByte_lt {s : State} {sp : Space} {a : Nat} {b : Byte} (h : readByte s sp a = some b) : a < sp.size s.cfg := by
  simp only [readByte] at h
  split at h
  · assumption
  · simp at h

/-- What `memRead` answers: the bytes that `readByte` gives one by one. -/
theorem memRead_eq_ok {s : State} {sp : Space} {a n : Nat} {bs : Bytes} :
    memRead s sp a n = .ok bs ↔ bs.length = n ∧ ∀ k, (h : k < bs.length) → readByte s sp (a + k) = some bs[k] := by
  induction n generalizing a bs with
  | zero =>
    simp only [memRead, Except.ok.injEq, List.length_eq_zero_iff]
    constructor
    · rintro rfl; simp
    · rintro ⟨rfl, -⟩; rfl
  | succ n ih =>
    simp only [memRead]
    constructor
    · intro h
      split at h
      · next hlt =>
        split at h
        · simp at h
        · next b hb =>
          split at h
          · next bs' hbs =>
            obtain rfl : b :: bs' = bs := by simpa using h
            obtain ⟨h1, h2⟩ := ih.mp hbs
            refine ⟨by simp [h1], ?_⟩
            rintro (_ | k) hk
            · simp [readByte_eq hlt, hb]
            · have := h2 k (by simpa using hk)
              rw [show a + (k + 1) = a + 1 + k by omega, this]
              rfl
          · simp at h
      · simp at h
    · rintro ⟨h1, h2⟩
      obtain ⟨b, bs', rfl⟩ := List.exists_cons_of_length_eq_add_one h1
      have h0 := h2 0 (by simp)
      have hlt := readByte_lt h0
      rw [Nat.add_zero] at hlt h0
      have hb : (s.memory sp).lookup (sp.base + a) = some b := by
        rw [← readByte_eq hlt, h0]; rfl
      have ht : memRead s sp (a + 1) n = .ok bs' := by
        refine ih.mpr ⟨by simpa using h1, fun k hk => ?_⟩
        have := h2 (k + 1) (by simpa using hk)
        rw [show a + 1 + k = a + (k + 1) by omega, this]
        rfl
      simp [hlt, hb, ht]

theorem memRead_length {s : State} {sp : Space} {a n : Nat} {bs : Bytes} (h : memRead s sp a n = .ok bs) : bs.length = n :=
  (memRead_eq_ok.mp h).1

/-- `memRead` succeeds exactly when every byte has a value. -/
theorem memRead_ok_of_isSome {s : State} {sp : Space} {a n : Nat} (h : ∀ k < n, (readByte s sp (a + k)).isSome) :
    ∃ bs, memRead s sp a n = .ok bs := by
  induction n generalizing a with
  | zero => exact ⟨[], rfl⟩
  | succ n ih =>
    obtain ⟨b, hb⟩ := Option.isSome_iff_exists.mp (h 0 (by omega))
    rw [Nat.add_zero] at hb
    obtain ⟨bs, hbs⟩ := @ih (a + 1) fun k hk => by
      have := h (k + 1) (by omega); rwa [show a + 1 + k = a + (k + 1) by omega]
    have hlt := readByte_lt hb
    rw [readByte_eq hlt] at hb
    exact ⟨b :: bs, by simp [memRead, hlt, hb, hbs]⟩

/-- Reads see only the memory of their space and the parameters. -/
theorem readByte_congr {s t : State} {sp : Space} {a : Nat} (hc : t.cfg = s.cfg) (hm : t.memory sp = s.memory sp) :
    readByte t sp a = readByte s sp a := by simp [readByte, hc, hm]

theorem memRead_congr {s t : State} {sp : Space} {a n : Nat} (hc : t.cfg = s.cfg) (hm : t.memory sp = s.memory sp) :
    memRead t sp a n = memRead s sp a n := by
  induction n generalizing a with
  | zero => rfl
  | succ n ih => simp only [memRead, ih, hc, hm]

/-- What `memWrite` answers. -/
theorem memWrite_eq_ok {s t : State} {sp : Space} {a : Nat} {bs : Bytes} :
    memWrite s sp a bs = .ok t ↔
      a + bs.length ≤ sp.size s.cfg ∧ t = s.setMemory sp ((s.memory sp).store (sp.base + a) bs) := by
  simp only [memWrite]
  split
  · next h => simp [h, eq_comm]
  · next h => simp [h]

/-- Every byte after a write: the bytes written, and all others as before, in every space. -/
theorem readByte_memWrite {s t : State} {sp : Space} {a : Nat} {bs : Bytes} (h : memWrite s sp a bs = .ok t)
    (sp' : Space) (x : Nat) :
    readByte t sp' x = if sp' = sp ∧ a ≤ x ∧ x < a + bs.length then bs[x - a]? else readByte s sp' x := by
  obtain ⟨hle, rfl⟩ := memWrite_eq_ok.mp h
  by_cases hsp : sp' = sp
  · subst hsp
    simp only [readByte, State.setMemory_cfg, State.memory_setMemory_same, Memory.lookup_store, true_and]
    by_cases hx : a ≤ x ∧ x < a + bs.length
    · rw [if_pos (by omega), if_pos (by omega), if_pos hx]
      congr 1
      omega
    · have hx' : ¬ (sp'.base + a ≤ sp'.base + x ∧ sp'.base + x < sp'.base + a + bs.length) := by omega
      rw [if_neg hx, if_neg hx']
  · simp only [hsp, false_and, if_false]
    by_cases hp : ∃ p q, sp = .page p ∧ sp' = .page q
    · obtain ⟨p, q, rfl, rfl⟩ := hp
      have hpq : q ≠ p := fun e => hsp (by rw [e])
      simp only [readByte, State.setMemory_cfg]
      split
      · next hx =>
        obtain ⟨hq, hx⟩ := Space.size_page hx
        have e : (s.setMemory (.page p) ((s.memory (.page p)).store ((Space.page p).base + a) bs)).memory (.page q) =
            (s.memory (.page p)).store ((Space.page p).base + a) bs := rfl
        rw [e, Memory.lookup_store, if_neg]
        · rfl
        · simp only [Space.base, pageBytes]
          have : (Space.page p).size s.cfg ≤ 40 := by simp only [Space.size, pageBytes]; split <;> omega
          rcases Nat.lt_or_gt_of_ne hpq with h | h <;> omega
      · rfl
    · refine readByte_congr (by simp) (State.memory_setMemory_other s _ hsp ?_)
      rintro p q ⟨rfl, rfl⟩
      exact hp ⟨p, q, rfl, rfl⟩

theorem memRead_memWrite_same {s t : State} {sp : Space} {a : Nat} {bs : Bytes} (h : memWrite s sp a bs = .ok t) :
    memRead t sp a bs.length = .ok bs := by
  refine memRead_eq_ok.mpr ⟨rfl, fun k hk => ?_⟩
  rw [readByte_memWrite h, if_pos ⟨rfl, by omega, by omega⟩]
  simp

/-- A write that fits succeeds. -/
theorem memWrite_ok {s : State} {sp : Space} {a : Nat} {bs : Bytes} (h : a + bs.length ≤ sp.size s.cfg) :
    memWrite s sp a bs = .ok (s.setMemory sp ((s.memory sp).store (sp.base + a) bs)) := memWrite_eq_ok.mpr ⟨h, rfl⟩

/-- A write keeps every memory canonical and inside its bounds. -/
theorem MemoryOk.memWrite {s t : State} {sp : Space} {a : Nat} {bs : Bytes} (hs : MemoryOk s)
    (h : memWrite s sp a bs = .ok t) : MemoryOk t := by
  obtain ⟨hle, rfl⟩ := memWrite_eq_ok.mp h
  have key : ((s.memory sp).store (sp.base + a) bs).wf = true ∧
      ∀ c ∈ (s.memory sp).store (sp.base + a) bs, c.1 < sp.extent s.cfg := by
    refine ⟨Memory.wf_store (hs sp).1 _ _, fun c hc => ?_⟩
    rcases Memory.mem_store hc with hc | ⟨h1, h2⟩
    · exact (hs sp).2 c hc
    · cases sp with
      | page p =>
        by_cases hp : p < 20 <;> simp only [Space.size, Space.base, Space.extent, queuePages, pageBytes, hp, if_true, if_false] at hle h1 h2 ⊢
        all_goals omega
      | _ => simp only [Space.size, Space.base, Space.extent] at *; omega
  intro sp'
  by_cases e : ∃ p q, sp = .page p ∧ sp' = .page q
  · obtain ⟨p, q, rfl, rfl⟩ := e
    exact key
  · by_cases hsp : sp' = sp
    · subst hsp
      rw [State.memory_setMemory_same, State.setMemory_cfg]
      exact key
    · rw [State.memory_setMemory_other s _ hsp (fun p q ⟨h1, h2⟩ => e ⟨p, q, h1, h2⟩), State.setMemory_cfg]
      exact hs sp'

end Sys2Proof.Machine
end

