-- ==== Sys2Proof/Laws/Outcomes.lean ====
section
/-! SUPPORT. What each shared operation and each phase of a command can do: if it answers a next state, which one. -/

namespace Sys2Proof.Machine

/-! ## The radio port -/

theorem answerReg_eq (s : State) : ∃ b u, answerReg s = (b, u) ∧ u = { s with env := u.env, tick := u.tick } := by
  simp only [answerReg]
  split <;> exact ⟨_, _, rfl, rfl⟩

theorem sampleLine_eq (s : State) :
    ∃ v u, sampleLine s = (v, u) ∧ u = { s with env := u.env, tick := u.tick, hist := s.hist ++ [.lineSample v] } := by
  simp only [sampleLine]
  split <;> exact ⟨_, _, rfl, rfl⟩

/-- A transaction always completes in `exec`: the read data, the answers, the counter and the history are all it writes. -/
theorem exec_radio {i : Instr} {s : State} (h : i.format = .radio) :
    ∃ t e, exec i s = .next t ∧ t = { s with
      rdData := t.rdData, rdBurst := t.rdBurst, env := t.env, tick := t.tick, hist := s.hist ++ [e] } := by
  cases i <;> simp [Instr.format] at h
  case readReg id =>
    obtain ⟨b, u, e, hu⟩ := answerReg_eq s
    refine ⟨_, .readReg id b, by simp only [exec, execReadReg, e]; rfl, ?_⟩
    rw [hu]; rfl
  case writeReg id v => exact ⟨_, .writeReg id v, rfl, rfl⟩
  case readBurst cmd n => exact ⟨_, .readBurst cmd n _, rfl, rfl⟩
  case writeBurst cmd B => exact ⟨_, .writeBurst cmd B, rfl, rfl⟩
  case strobe cmd => exact ⟨_, .strobe cmd, rfl, rfl⟩

/-- After an unsuccessful read of the state register: one more read, or the timeout (R137, R271). -/
theorem spinAgain_cases (s : State) (p : Awaited) :
    spinAgain s p = { spinRead s p with spinCount := (spinAgain s p).spinCount } ∨
      (s.cfg.spinLimit = some (s.spinCount + 1) ∧
        spinAgain s p = abortTimeout { s with spinCount := s.spinCount + 1 } p) := by
  cases h : s.cfg.spinLimit with
  | none => left; simp only [spinAgain, h]
  | some n =>
    by_cases hn : s.spinCount + 1 = n
    · right; subst hn; simp [spinAgain, h]
    · left; simp only [spinAgain, h, hn, if_false]; rfl

/-! ## The queue -/

/-- Push stores and links, or does nothing (R241). -/
theorem push_cases {s t : State} {P : Bytes} {b : Bool} (h : push s P = .ok (b, t)) :
    (b = false ∧ t = s) ∨ ∃ p u, b = true ∧ s.count ≠ 20 ∧ freePage s = some p ∧ memWrite s (.page p) 0 P = .ok u ∧
      t = linkPage u p := by
  by_cases hc : s.count = queuePages
  · simp only [push, hc, if_true] at h
    cases h; exact .inl ⟨rfl, rfl⟩
  simp only [push, hc, if_false] at h
  cases hp : freePage s with
  | none => rw [hp] at h; cases h; exact .inl ⟨rfl, rfl⟩
  | some p =>
    rw [hp] at h
    cases hu : memWrite s (.page p) 0 P with
    | error f => simp [hu] at h
    | ok u =>
      simp only [hu] at h
      cases h; exact .inr ⟨p, u, rfl, hc, rfl, hu, rfl⟩

theorem linkPage_frame (s : State) (p : Nat) : linkPage s p = { s with
    occupied := s.occupied.set p true, nextLink := (linkPage s p).nextLink, head := (linkPage s p).head
    tail := some p, count := s.count + 1 } := by
  simp only [linkPage]; split <;> rfl

/-- Pull reads the head page and unlinks it, or does nothing (R242). -/
theorem pull_cases {s t : State} {r : Option Bytes} (h : pull s = .ok (r, t)) :
    (r = none ∧ s.count = 0 ∧ t = s) ∨ ∃ P, r = some P ∧ s.count ≠ 0 ∧
      memRead s (.page (s.head.getD nullPage)) 0 pageBytes = .ok P ∧ t = unlinkPage s (s.head.getD nullPage) := by
  by_cases hc : s.count = 0
  · simp only [pull, hc, if_true] at h
    cases h; exact .inl ⟨rfl, hc, rfl⟩
  simp only [pull, hc, if_false] at h
  cases hP : memRead s (.page (s.head.getD nullPage)) 0 pageBytes with
  | error f => simp [hP] at h
  | ok P =>
    simp only [hP] at h
    cases h; exact .inr ⟨P, rfl, hc, rfl, rfl⟩

theorem unlinkPage_frame (s : State) (p : Nat) : unlinkPage s p = { s with
    occupied := s.occupied.set p false, nextLink := (unlinkPage s p).nextLink, head := (unlinkPage s p).head
    tail := (unlinkPage s p).tail, count := s.count - 1 } := by
  simp only [unlinkPage]; split <;> rfl

/-! ## Received frames -/

/-- DecodeOne answers only frame instructions, and well-formed ones (R164, R165). -/
theorem decodeOne_frame {s : State} {o n : Nat} {rem : Int} {i : Instr} (h : decodeOne s o rem = .ok (.frame i, n)) :
    i.format = .frame ∧ i.wf s.cfg = true ∧ (n : Int) ≤ rem := by
  simp only [decodeOne] at h
  split at h
  · cases h
  rename_i bs hbs
  split at h
  · cases h
  split at h
  · cases h
  rename_i h5 hr
  split at h
  · cases h
  rename_i F hF
  split at h
  · rename_i j hj
    cases h
    have h0 : F.getD 0 0 = bs.getD 0 0 := by
      have l1 := memRead_eq_ok.mp hbs
      have l2 := memRead_eq_ok.mp hF
      have a1 := l1.2 0 (by omega)
      have a2 := l2.2 0 (by omega)
      rw [a1] at a2
      rw [List.getD_eq_getElem _ _ (by omega), List.getD_eq_getElem _ _ (by omega)]
      simpa using a2.symm
    obtain ⟨e1, e2, -⟩ := encode_parseFrame (c := s.cfg) (F := F) (by rw [h0, memRead_length hF]) (by rw [h0]; omega) hj
    exact ⟨e1, e2, by push_cast; exact Int.not_lt.mp hr⟩
  · cases h

/-- SendAck starts: the ACK frame is in `ackBuf`, and its transmit sequence comes next (R217). -/
theorem sendAck_eq (s : State) (dest : Byte) (andThen : List Act) :
    ∃ t, sendAck s dest andThen = .next t ∧ t = { s with
      ackBuf := Memory.store s.ackBuf 0 (ackFrame s dest), engState := .transmitting
      todo := transmitActs s.cfg (ackFrame s dest) ++ (.receiving :: andThen) ++ s.todo } := by
  have hw : memWrite s .ackb 0 (ackFrame s dest) = .ok _ := memWrite_ok (Nat.le_refl 6)
  have hr := memRead_memWrite_same hw
  rw [show (ackFrame s dest).length = headerBytes from rfl] at hr
  refine ⟨_, by simp only [sendAck, hw, hr]; rfl, ?_⟩
  simp only [transmit, State.enter, State.plan, List.append_assoc]
  rfl

/-- ProcessFrame never stops. It discards, marks, or plans an ACK, a push, or both (R213). -/
theorem processFrame_eq (s : State) (isMsg : Bool) (r sd : Byte) (tok : Half) (page : Bytes) :
    ∃ t, processFrame s isMsg r sd tok page = .next t ∧
      ((tok ≠ s.messageSignature ∧ t = s.raise (.tokenMismatch tok)) ∨
        (tok = s.messageSignature ∧ isMsg = false ∧ matchedAck s r sd = true ∧ t = { s with ackSeen := true }) ∨
        (tok = s.messageSignature ∧ ¬ (isMsg = false ∧ matchedAck s r sd = true) ∧
          ∃ pushes : List Act, pushes = (if isMsg then [.enqueue page sd] else []) ∧
            (t = { s with todo := pushes ++ s.todo } ∨
              (r ≠ 0 ∧ t = { s with
                ackBuf := Memory.store s.ackBuf 0 (ackFrame s sd), engState := .transmitting
                todo := transmitActs s.cfg (ackFrame s sd) ++ (.receiving :: pushes) ++ s.todo })))) := by
  simp only [processFrame]
  by_cases ht : tok = s.messageSignature
  · simp only [ne_eq, ht, not_true_eq_false, if_false, classify]
    by_cases hm : (!isMsg && matchedAck s r sd) = true
    · simp only [hm, if_true, Bool.false_eq_true, if_false]
      simp only [Bool.and_eq_true, Bool.not_eq_true'] at hm
      exact ⟨_, rfl, .inr (.inl ⟨trivial, hm.1, hm.2, rfl⟩)⟩
    · have hm' : ¬ (isMsg = false ∧ matchedAck s r sd = true) := by
        simpa only [Bool.and_eq_true, Bool.not_eq_true'] using hm
      simp only [hm]
      by_cases hr : r ≠ broadcastAddr ∧ (isMsg || s.cfg.replyToUnmatchedAck) = true
      · simp only [hr, Bool.false_eq_true, if_false]
        obtain ⟨t, e, he⟩ := sendAck_eq s sd (if isMsg = true then [.enqueue page sd] else [])
        exact ⟨t, e, .inr (.inr ⟨trivial, hm', _, rfl, .inr ⟨hr.1, he⟩⟩)⟩
      · simp only [hr, if_false, Bool.false_eq_true]
        exact ⟨_, rfl, .inr (.inr ⟨trivial, hm', _, rfl, .inl rfl⟩)⟩
  · simp only [ne_eq, ht, not_false_eq_true, if_true]
    exact ⟨_, rfl, .inl ⟨trivial, rfl⟩⟩

/-! ## The phases of a command -/

/-- An attempt starts: the bytes of `txBuf` go out, and nothing else is left to do but what follows them (R185). -/
theorem startAttempt_cases {s t : State} (h : startAttempt s = .next t) :
    ∃ B, memRead s .tx 0 s.txLen = .ok B ∧
      t = { s with engState := .transmitting, todo := transmitActs s.cfg B ++ [.afterTransmit] } := by
  simp only [startAttempt] at h
  split at h
  · cases h
  · rename_i B hB
    cases h; exact ⟨B, hB, rfl⟩

/-- A pass of POST_MESSAGE ends: success, failure, or the next attempt (R187). -/
theorem ackTest_cases {s t : State} (h : ackTest s = .next t) :
    (s.ackSeen = true ∧ t = finish { s with ackSeen := false, awaitValid := false } true .ok) ∨
    (s.ackSeen = false ∧ s.latch.maxRetriesR < s.attempt + 1 ∧
      t = fail { s with attempt := s.attempt + 1, awaitValid := false }
        (.deliveryFailure s.latch.opRecipient (s.attempt + 1)) .deliveryFail) ∨
    (s.ackSeen = false ∧ s.attempt + 1 ≤ s.latch.maxRetriesR ∧ ∃ B, memRead s .tx 0 s.txLen = .ok B ∧
      t = { s with
        attempt := s.attempt + 1, engState := .transmitting, todo := transmitActs s.cfg B ++ [.afterTransmit] }) := by
  simp only [ackTest] at h
  split at h
  · cases h; exact .inl ⟨‹_›, rfl⟩
  · rename_i hs
    have hs : s.ackSeen = false := by simpa using hs
    split at h
    · cases h; exact .inr (.inl ⟨hs, ‹_›, rfl⟩)
    · rename_i hn
      obtain ⟨B, hB, e⟩ := startAttempt_cases h
      exact .inr (.inr ⟨hs, by omega, B, hB ▸ memRead_congr rfl rfl, e⟩)

/-- A poll cycle ends (R211 step 7, R212, R187). -/
theorem endCycle_cases {s t : State} {c : Caller} {ovf : Bool} (h : endCycle s c ovf = .next t) :
    (c = .poll ∧ ovf = true ∧ t = finish (s.enter .receiving) false .rxOverflow) ∨
    (c = .poll ∧ ovf = false ∧ t = finish (s.enter .receiving) (!s.qEmpty) .ok) ∨
    (c = .post ∧ ackTest (s.enter .receiving) = .next t) := by
  cases c with
  | poll =>
    simp only [endCycle] at h
    cases ovf with
    | true => simp only [if_true] at h; cases h; exact .inl ⟨rfl, rfl, rfl⟩
    | false => simp only [Bool.false_eq_true, if_false] at h; cases h; exact .inr (.inl ⟨rfl, rfl, rfl⟩)
  | post => exact .inr (.inr ⟨rfl, h⟩)

/-- A poll cycle begins: one line sample, then the count read or the end (R211 step 1). -/
theorem pollCycle_cases {s t : State} {c : Caller} (h : pollCycle s c = .next t) :
    ∃ u v, sampleLine s = (v, u) ∧
      ((v = true ∧ t = { u with todo := .issue (.readReg u.cfg.radio.regRxbytes) :: .rxCount c :: u.todo }) ∨
        (v = false ∧ endCycle u c false = .next t)) := by
  refine ⟨(sampleLine s).2, (sampleLine s).1, rfl, ?_⟩
  simp only [pollCycle] at h
  cases hv : (sampleLine s).1 with
  | true => simp only [hv, if_true] at h; cases h; exact .inl ⟨rfl, rfl⟩
  | false => simp only [hv, Bool.false_eq_true, if_false] at h; exact .inr ⟨rfl, h⟩

theorem storeBurst_cases {s t : State} (h : storeBurst s = .next t) :
    s.rdBurst.length ≤ s.cfg.fifoCap ∧ t = { s with
      rxBuf := Memory.store s.rxBuf 0 s.rdBurst, rxLen := s.rdBurst.length, rxOff := 0, rxRem := s.rdBurst.length } := by
  simp only [storeBurst] at h
  split at h
  · cases h
  · rename_i u hu
    obtain ⟨hle, rfl⟩ := memWrite_eq_ok.mp hu
    cases h
    refine ⟨by simpa [Space.size] using hle, rfl⟩

theorem enqueue_cases {s t : State} {page : Bytes} {sd : Byte} (h : enqueue s page sd = .next t) :
    push s page = .ok (true, t) ∨ (push s page = .ok (false, s) ∧ t = s.raise (.queueFull sd)) := by
  simp only [enqueue] at h
  split at h
  · cases h
  · cases h; exact .inl ‹_›
  · rename_i u hu
    rcases push_cases hu with ⟨-, e⟩ | ⟨_, _, e, -⟩
    · cases h; subst e; exact .inr ⟨hu, rfl⟩
    · cases e

/-! ## The commands -/

/-- INIT is refused or fails, leaving the block but for the port, or begins with the identity written (R181). -/
theorem execInit_cases (a p : Byte) (g : Half) (s : State) :
    (∃ code, exec (.init a p g) s = .next (refuse (acceptInit s a p g) code)) ∨
    (∃ e code, exec (.init a p g) s = .next (fail (acceptInit s a p g) e code)) ∨
    (s.fault = false ∧ s.engState = .idle ∧ addrMin ≤ a ∧ a ≤ addrMax ∧ s.cfg.powerValid p = true ∧
      exec (.init a p g) s = .next { acceptInit s a p g with
        deviceAddress := a, outputPower := p, messageSignature := g
        todo := .configure p :: armReceive s.cfg ++ [.initDone] }) := by
  simp only [exec, execInit]
  cases hg : gateInit (acceptInit s a p g) with
  | some code => exact .inl ⟨_, rfl⟩
  | none =>
    cases hi : initOperandError (acceptInit s a p g) a p with
    | some r => exact .inr (.inl ⟨_, _, rfl⟩)
    | none =>
      have hf : s.fault = false := by
        cases hs : s.fault with
        | false => rfl
        | true => simp [gateInit, acceptInit, accept, hs] at hg
      have he : s.engState = .idle := by
        by_contra he
        simp [gateInit, acceptInit, accept, hf, he] at hg
      have ha : ¬ (a < addrMin ∨ addrMax < a) := by
        intro ha
        simp [initOperandError, ha] at hi
      have hp : s.cfg.powerValid p = true := by
        by_contra hp
        simp [initOperandError, ha, acceptInit, accept, hp] at hi
      rw [not_or, BitVec.not_lt, BitVec.not_lt] at ha
      exact .inr (.inr ⟨hf, he, ha.1, ha.2, hp, rfl⟩)

theorem gateRunning_none {s : State} (h : gateRunning s = none) : s.fault = false ∧ s.engState ≠ .idle := by
  have hf : s.fault = false := by
    cases hs : s.fault with
    | false => rfl
    | true => simp [gateRunning, hs] at h
  exact ⟨hf, fun he => by simp [gateRunning, hf, he] at h⟩

theorem execPoll_cases (s : State) :
    (∃ code, exec .poll s = .next (refuse (acceptBare s opPoll) code)) ∨
    (s.fault = false ∧ s.engState ≠ .idle ∧ exec .poll s = pollCycle (acceptBare s opPoll) .poll) := by
  simp only [exec, execPoll]
  cases hg : gateRunning (acceptBare s opPoll) with
  | some code => exact .inl ⟨_, rfl⟩
  | none => exact .inr ⟨(gateRunning_none hg).1, (gateRunning_none hg).2, rfl⟩

theorem execPostMessage_cases (r m n : Byte) (d : Bytes) (k : Nat) (s : State) :
    (∃ code, exec (.postMessage r m n d k) s = .next (refuse (acceptPost s r m n d k) code)) ∨
    (32 < n.toNat ∧ exec (.postMessage r m n d k) s =
      .next (fail (acceptPost s r m n d k) (.dataTooLong n) .dataTooLong)) ∨
    (s.fault = false ∧ s.engState ≠ .idle ∧ n.toNat ≤ 32 ∧
      ((∃ f, exec (.postMessage r m n d k) s = .fault f) ∨
        ∃ u, buildFrame (acceptPost s r m n d k) = .ok u ∧ exec (.postMessage r m n d k) s = startAttempt u)) := by
  simp only [exec, execPostMessage]
  cases hg : gateRunning (acceptPost s r m n d k) with
  | some code => exact .inl ⟨_, rfl⟩
  | none =>
    by_cases hn : dataMax < n.toNat
    · simp only [hn, if_true]; exact .inr (.inl ⟨hn, trivial⟩)
    · simp only [hn, if_false]
      refine .inr (.inr ⟨(gateRunning_none hg).1, (gateRunning_none hg).2, by simpa [dataMax] using hn, ?_⟩)
      cases buildFrame (acceptPost s r m n d k) with
      | error f => exact .inl ⟨_, rfl⟩
      | ok u => exact .inr ⟨u, rfl, rfl⟩

theorem buildFrame_cases {s u : State} (h : buildFrame s = .ok u) :
    ∃ data, memRead s .opData 0 s.latch.opDataLen.toNat = .ok data ∧
      u = { s with
        txBuf := Memory.store s.txBuf 0 (postFrame s data), txLen := 8 + s.latch.opDataLen.toNat
        ackSeen := false, attempt := 0, awaitAddr := s.latch.opRecipient
        awaitValid := s.latch.opRecipient ≠ broadcastAddr } := by
  simp only [buildFrame] at h
  split at h
  · cases h
  · rename_i data hd
    split at h
    · cases h
    · rename_i v hv
      obtain ⟨-, rfl⟩ := memWrite_eq_ok.mp hv
      cases h
      exact ⟨data, hd, rfl⟩

theorem execGetMessage_cases {s t : State} (h : exec .getMessage s = .next t) :
    (∃ code, t = refuse (acceptBare s opGetMessage) code) ∨
    (s.fault = false ∧ s.count ≠ 0 ∧ ∃ P, memRead s (.page (s.head.getD nullPage)) 0 pageBytes = .ok P ∧
      t = respond (unlinkPage (acceptBare s opGetMessage) (s.head.getD nullPage)) ⟨true, .ok, messageOf P⟩) := by
  simp only [exec, execGetMessage] at h
  split at h
  · cases h; exact .inl ⟨_, rfl⟩
  · rename_i hg
    split at h
    · cases h
    · rename_i u hu
      rcases pull_cases hu with ⟨-, -, rfl⟩ | ⟨_, e, -⟩
      · cases h; exact .inl ⟨_, rfl⟩
      · cases e
    · rename_i P u hu
      rcases pull_cases hu with ⟨e, -, -⟩ | ⟨_, e, hc, hP, rfl⟩
      · cases e
      · cases e; cases h
        refine .inr ⟨?_, hc, P, ?_, rfl⟩
        · cases hs : s.fault with
          | false => rfl
          | true => simp [gateAny, acceptBare, accept, hs] at hg
        · rw [← hP]; exact (memRead_congr rfl rfl).symm

/-- GET_VERSION and GET_PARTNUMBER are refused, or read their register next (R142, R143). -/
theorem beginDiagnostic_cases (s : State) (op : BitVec 3) (id : Byte) :
    (∃ code, beginDiagnostic s op id = refuse (acceptBare s op) code) ∨
    (s.fault = false ∧ beginDiagnostic s op id = { acceptBare s op with todo := [.issue (.readReg id), .respondValue] }) := by
  simp only [beginDiagnostic]
  split
  · exact .inl ⟨_, rfl⟩
  · rename_i hg
    refine .inr ⟨?_, rfl⟩
    cases hs : s.fault with
    | false => rfl
    | true => simp [gateAny, acceptBare, accept, hs] at hg

/-- A command record decodes to a command, and its data operand has 32 bytes (R101). -/
theorem decodeCmd_format {c : Config} {bs : Bytes} {i : Instr} (h : decodeCmd c bs = .ok i) :
    i.format = .cmd ∧ ∀ r m n d k, i = .postMessage r m n d k → d.length = 32 := by
  unfold decodeCmd at h
  split at h
  · cases h
  · split at h <;> first | (cases h; done) | skip
    all_goals first | (injection h with h; subst h; exact ⟨rfl, by simp⟩) | skip
    simp only [decodePost] at h
    split at h
    · cases h
    · rename_i hl
      split at h
      · injection h with h; subst h
        refine ⟨rfl, ?_⟩
        rintro _ _ _ _ _ ⟨⟩
        simp [dataMax] at *; omega
      · cases h

end Sys2Proof.Machine
end

