-- ==== Sys2Proof/Laws/PerInstr.lean ====
section
/-! SUPPORT. Facts about every instruction as text, one lemma for each constructor. Family EncodeLength: how many bytes an encoding has
(R91, R92, R101, R102). -/

namespace Sys2Proof.Laws

/-- The number of bytes of an instruction's encoding. -/
def byteLength (c : Config) : Instr → Nat
  | .frameAck _ _ _ => 6
  | .frameMsg _ _ _ _ d => 8 + d.length
  | .init _ _ _ => 5
  | .poll => 1
  | .getMessage => 1
  | .postMessage _ _ _ _ _ => 36 + retryBytes c
  | .getVersion => 1
  | .getPartNumber => 1
  | .readReg _ => 2
  | .writeReg _ _ => 3
  | .readBurst _ _ => 3
  | .writeBurst _ B => 2 + B.length
  | .strobe _ => 2

namespace EncodeLength

def Statement (i : Instr) : Prop := ∀ c, i.wf c = true → (encode c i).length = byteLength c i

theorem frameAck (r s : Byte) (t : Half) : Statement (.frameAck r s t) := fun _ _ => rfl

theorem frameMsg (r s : Byte) (t : Half) (m : Byte) (d : Bytes) : Statement (.frameMsg r s t m d) := by
  intro c h
  have hd : d.length ≤ 32 := of_decide_eq_true h
  have := toNat_ofNat_length hd
  simp only [encode, byteLength]
  rw [encodeMsg_length _ _ _ _ _ _ _ (by omega), this]

theorem init (a p : Byte) (g : Half) : Statement (.init a p g) := fun _ _ => rfl

theorem poll : Statement .poll := fun _ _ => rfl

theorem getMessage : Statement .getMessage := fun _ _ => rfl

theorem postMessage (r m n : Byte) (d : Bytes) (k : Nat) : Statement (.postMessage r m n d k) := by
  intro c h
  have hd : d.length = 32 := of_decide_eq_true (Bool.and_eq_true_iff.mp h).1
  simp only [encode, byteLength, List.length_cons, List.length_append, leBytes_length, hd]
  omega

theorem getVersion : Statement .getVersion := fun _ _ => rfl

theorem getPartNumber : Statement .getPartNumber := fun _ _ => rfl

theorem readReg (id : Byte) : Statement (.readReg id) := fun _ _ => rfl

theorem writeReg (id v : Byte) : Statement (.writeReg id v) := fun _ _ => rfl

theorem readBurst (cmd : Byte) (n : Nat) : Statement (.readBurst cmd n) := fun _ _ => rfl

theorem writeBurst (cmd : Byte) (B : Bytes) : Statement (.writeBurst cmd B) := by
  intro c _
  simp only [encode, byteLength, List.length_cons]
  omega

theorem strobe (cmd : Byte) : Statement (.strobe cmd) := fun _ _ => rfl

end EncodeLength

end Sys2Proof.Laws
end

