-- ==== Sys2Proof/Laws/Queue.lean ====
section
/-! SUPPORT. Rings of occupied pages (R44), and what Push and Pull do to them (R241, R242, R245). -/

namespace Sys2Proof.Machine

/-! ## Walking a ring -/

theorem Ring.getD {s : State} {ring : List Nat} (h : Ring s ring) {k : Nat} (hk : k + 1 < ring.length) :
    s.nextLink.getD (ring.getD k nullPage) nullPage = ring.getD (k + 1) nullPage := by
  have := h.next k (by omega)
  rw [List.getD_eq_getElem _ _ (show k < ring.length by omega), this, List.getD_eq_getElem _ _ hk]
  congr 1
  exact Nat.mod_eq_of_lt hk

/-- The walk from the `k`-th page of the ring meets the pages after it in order. -/
theorem Ring.walkFrom {s : State} {ring : List Nat} (h : Ring s ring) (n k : Nat) (hk : k + n ≤ ring.length) :
    walkFrom s n (ring.getD k nullPage) = (ring.drop k).take n := by
  induction n generalizing k with
  | zero => simp [Machine.walkFrom]
  | succ n ih =>
    have hlt : k < ring.length := by omega
    rw [List.drop_eq_getElem_cons hlt, List.take_succ_cons, Machine.walkFrom, List.getD_eq_getElem _ _ hlt]
    congr 1
    cases n with
    | zero => simp [Machine.walkFrom]
    | succ n =>
      have := h.getD (k := k) (by omega)
      rw [List.getD_eq_getElem _ _ hlt] at this
      rw [this]
      exact ih (k + 1) (by omega)

theorem Ring.queueContents {s : State} {ring : List Nat} (h : Ring s ring) : queueContents s = ring.map (pageOf s) := by
  have hw := h.walkFrom ring.length 0 (by omega)
  rw [List.drop_zero, List.take_length] at hw
  have hh : s.head.getD nullPage = ring.getD 0 nullPage := by rw [h.head]; cases ring <;> rfl
  simp only [Machine.queueContents, h.count, hh, hw]

theorem Ring.length_le {s : State} {ring : List Nat} (h : Ring s ring) : ring.length ≤ queuePages := by
  have : ring ⊆ List.range queuePages := fun p hp => List.mem_range.mpr (h.below p hp)
  simpa using (List.subperm_of_subset h.nodup this).length_le

theorem pageOf_congr {s t : State} {p : Nat} (hc : t.cfg = s.cfg) (hm : t.pages = s.pages) : pageOf t p = pageOf s p := by
  simp only [pageOf, memRead_congr (s := s) (t := t) hc (show t.memory (.page p) = s.memory (.page p) from hm)]

/-- A ring is a matter of the queue's registers and pages alone. -/
theorem Ring.congr {s t : State} {ring : List Nat} (h : Ring s ring) (hc : t.cfg = s.cfg) (hp : t.pages = s.pages)
    (ho : t.occupied = s.occupied) (hn : t.nextLink = s.nextLink) (hh : t.head = s.head) (ht : t.tail = s.tail)
    (hk : t.count = s.count) : Ring t ring where
  flags := by rw [ho]; exact h.flags
  links := by rw [hn]; exact h.links
  nodup := h.nodup
  occupied := by rw [ho]; exact h.occupied
  below := h.below
  count := by rw [hk]; exact h.count
  head := by rw [hh]; exact h.head
  tail := by rw [ht]; exact h.tail
  next := by rw [hn]; exact h.next
  full := fun p hp' => by
    rw [memRead_congr (s := s) (t := t) hc (show t.memory (.page p) = s.memory (.page p) from hp)]
    exact h.full p hp'

end Sys2Proof.Machine
end

