-- ==== Sys2Proof/Laws/Step.lean ====
section
/-! SUPPORT. One step by what comes next, and runs of several steps. -/

namespace Sys2Proof.Machine

/-! ## One step -/

theorem step_reset {s : State} (h : s.resetPin = true) : step s = .next (assertReset s) := by simp [step, h]

theorem step_todo {s : State} {a : Act} {rest : List Act} (hr : s.resetPin = false) (ht : s.todo = a :: rest) :
    step s = goOn a rest s := by simp [step, hr, ht]

/-- An action that is no transaction. -/
theorem step_action {s : State} {a : Act} {rest : List Act} (hr : s.resetPin = false) (ht : s.todo = a :: rest)
    (ha : a.isTransaction = false) : step s = perform a { s with todo := rest } := by
  rw [step_todo hr ht]; simp [goOn, ha]

theorem countCompletion_of_completes {s : State} (h : s.radioCompletes) : countCompletion s = s := by
  obtain ⟨cfg, ⟨line, regs, fifo, completions⟩⟩ := s
  cases (show completions = none from h)
  rfl

/-- A transaction, the radio completing it. -/
theorem step_issue {s : State} {i : Instr} {rest : List Act} (hr : s.resetPin = false) (ht : s.todo = .issue i :: rest)
    (hc : s.radioCompletes) : step s = exec i { s with todo := rest } := by
  rw [step_todo hr ht]
  have : radioResponds s = true := by simp [radioResponds, show s.env.completions = none from hc]
  simp only [goOn, this, Bool.not_true, Bool.and_false, Bool.false_eq_true, if_false, perform]
  rw [countCompletion_of_completes (s := { s with todo := rest }) hc]

theorem step_configure {s : State} {p : Byte} {rest : List Act} (hr : s.resetPin = false) (ht : s.todo = .configure p :: rest)
    (hc : s.radioCompletes) : step s = .next (({ s with todo := rest } : State).log (.configure p)) := by
  rw [step_todo hr ht]
  have : radioResponds s = true := by simp [radioResponds, show s.env.completions = none from hc]
  simp only [goOn, this, Bool.not_true, Bool.and_false, Bool.false_eq_true, if_false, perform]
  rw [countCompletion_of_completes (s := { s with todo := rest }) hc]
  rfl

/-- A transaction that the radio never completes (R270). -/
theorem step_hung {s : State} (hr : s.resetPin = false) (h : s.hung) : step s = .next s := by
  obtain ⟨a, rest, ht, ha, hc⟩ := h
  rw [step_todo hr ht]
  simp [goOn, ha, radioResponds, hc]

/-! ## Several steps -/

theorem run_zero (s : State) : run 0 s = .next s := rfl

theorem run_step {s t : State} (h : step s = .next t) (k : Nat) : run (k + 1) s = run k t := by
  have h' : Sys2Proof.core.step s = .next t := h
  simp only [run, Host.Core.run, h']
  rfl

theorem run_trans {s t : State} {j : Nat} (h : run j s = .next t) (k : Nat) : run (j + k) s = run k t := by
  induction j generalizing s with
  | zero =>
    have e : run 0 s = .next s := rfl
    rw [e] at h
    injection h with h
    subst h
    rw [Nat.zero_add]
  | succ j ih =>
    cases hs : step s with
    | next s' =>
      rw [run_step hs] at h
      rw [show j + 1 + k = (j + k) + 1 by omega, run_step hs]
      exact ih h
    | fault r =>
      have h' : Sys2Proof.core.step s = .fault r := hs
      simp [run, Host.Core.run, h'] at h
    | refused r =>
      have h' : Sys2Proof.core.step s = .refused r := hs
      simp [run, Host.Core.run, h'] at h

/-! ## The radio port -/

theorem exec_readReg {s : State} {id b : Byte} {more : Bytes} (h : s.env.regs = b :: more) :
    exec (.readReg id) s = .next { s with
      rdData := b, env := { s.env with regs := more }, hist := s.hist ++ [.readReg id b] } := by
  simp [exec, execReadReg, answerReg, h, State.log]

/-- Reading a register, whatever the answer: only the port's data, the environment and the history change. -/
theorem exec_readReg_frame (s : State) (id : Byte) :
    ∃ t, exec (.readReg id) s = .next t ∧ t.hist = s.hist ++ [.readReg id t.rdData] ∧
      t = { s with rdData := t.rdData, env := t.env, tick := t.tick, hist := t.hist } := by
  refine ⟨_, rfl, ?_, ?_⟩ <;> simp only [answerReg] <;> split <;> rfl

theorem burstBytes_length (fifo : Bytes) (tick n : Nat) : (burstBytes fifo tick n).length = n := by
  induction n generalizing fifo tick with
  | zero => rfl
  | succ n ih => cases fifo <;> simp [burstBytes, ih]

theorem burstBytes_append (B more : Bytes) (tick : Nat) : burstBytes (B ++ more) tick B.length = B := by
  induction B with
  | nil => rfl
  | cons b B ih => simp [burstBytes, ih]

end Sys2Proof.Machine
end

