-- ==== Sys2Proof/Tests/Slice0.lean ====
section
/-! SUPPORT. Small tests. Expected values are the spec's own vectors (95_test_vectors.md V<n>, P<n>) and the encodings of
30_encoding.md, worked out by hand from their tables; the radio's numbers are those of 93_implementation_defined.md G4 to G6. -/

namespace Sys2Proof.Machine.Tests

/-! ## A concrete block -/

/-- The default parameters with the radio of G4 to G6. -/
def cfg : Config where
  fifoCap := 64
  ptAck := 0x00
  ptMsg := 0x01
  tokenLe := true
  powerLevels := [1, 2, 3, 4, 5, 6, 7, 8]
  maxRetriesBits := 8
  spinLimit := none
  replyToUnmatchedAck := true
  radio := Config.fallbackIds

def fresh : State := { State.reset with cfg := cfg }

/-- The setup state of 95_test_vectors.md: INIT addr=5 power=3 sig=0xBEEF has run. -/
def setup : State :=
  { fresh with deviceAddress := 5, outputPower := 3, messageSignature := 0xBEEF, engState := .receiving }

/-- Script the environment's answers. -/
def withEnv (s : State) (line : List Bool) (regs fifo : Bytes) : State :=
  { s with env := { line := line, regs := regs, fifo := fifo, completions := none } }

/-- Offer a record. -/
def offer (s : State) (r : Bytes) : State := { s with cmdPort := [r] }

/-- A property of the next state. -/
def after (r : Result) (p : State → Bool) : Bool :=
  match r with
  | .next s => p s
  | _ => false

def rspCode (s : State) : Option (Bool × RspCode) := s.rsp.map fun r => (r.ok, r.code)

/-! ## Ill-formed instructions are refused by the check -/

theorem test_wf_msg_data_too_long : (Instr.frameMsg 9 5 0xBEEF 2 (List.replicate 33 0)).wf cfg = false := by decide
theorem test_wf_post_data_not_32_bytes : (Instr.postMessage 9 2 3 [0x11] 2).wf cfg = false := by decide
theorem test_wf_post_retries_too_wide : (Instr.postMessage 9 2 3 (List.replicate 32 0) 256).wf cfg = false := by decide
theorem test_wf_read_burst_empty : (Instr.readBurst 0xFF 0).wf cfg = false := by decide
theorem test_wf_read_burst_above_fifo : (Instr.readBurst 0xFF 65).wf cfg = false := by decide
theorem test_wf_read_burst_above_byte : (Instr.readBurst 0xFF 256).wf { cfg with fifoCap := 300 } = false := by decide
theorem test_wf_write_burst_short : (Instr.writeBurst 0x7F [1, 2, 3, 4, 5]).wf cfg = false := by decide
theorem test_wf_write_burst_long : (Instr.writeBurst 0x7F (List.replicate 41 0)).wf cfg = false := by decide

/-! ## Decoding: words written out from the spec's encodings -/

/-- V1, V6. -/
theorem test_decode_frame_ack :
    decode cfg .frame [0b00000101, 0x09, 0x05, 0xEF, 0xBE, 0b00000000] = .ok (.frameAck 0x09 0x05 0xBEEF) := by decide
/-- V2, V7. -/
theorem test_decode_frame_msg :
    decode cfg .frame [0x0A, 0x09, 0x05, 0xEF, 0xBE, 0b00000001, 0x02, 0x03, 0x11, 0x22, 0x33] =
      .ok (.frameMsg 0x09 0x05 0xBEEF 0x02 [0x11, 0x22, 0x33]) := by decide
/-- V5: the other byte order and other type codes. -/
theorem test_decode_frame_ack_big_endian :
    decode { cfg with tokenLe := false, ptAck := 0x41, ptMsg := 0x4D } .frame [0x05, 0x09, 0x05, 0xBE, 0xEF, 0x41] =
      .ok (.frameAck 0x09 0x05 0xBEEF) := by decide
theorem test_decode_init :
    decode cfg .cmd [0b000, 0x05, 0x03, 0xEF, 0xBE] = .ok (.init 0x05 0x03 0xBEEF) := by decide
theorem test_decode_poll : decode cfg .cmd [0b001] = .ok .poll := by decide
theorem test_decode_get_message : decode cfg .cmd [0b010] = .ok .getMessage := by decide
theorem test_decode_post_message :
    decode cfg .cmd ([0b011, 0x09, 0x02, 0x03, 0x11, 0x22, 0x33] ++ List.replicate 29 0 ++ [0x07]) =
      .ok (.postMessage 0x09 0x02 0x03 ([0x11, 0x22, 0x33] ++ List.replicate 29 0) 7) := by decide
theorem test_decode_get_version : decode cfg .cmd [0b100] = .ok .getVersion := by decide
theorem test_decode_get_partnumber : decode cfg .cmd [0b101] = .ok .getPartNumber := by decide
theorem test_decode_reserved_op : decode cfg .cmd [0b110] = .error (.reservedOp 6) := by decide
theorem test_decode_read_reg : decode cfg .radio [0b000, 0x35] = .ok (.readReg 0x35) := by decide
theorem test_decode_write_reg : decode cfg .radio [0b001, 0x0A, 0x55] = .ok (.writeReg 0x0A 0x55) := by decide
theorem test_decode_read_burst : decode cfg .radio [0b010, 0xFF, 0x1E] = .ok (.readBurst 0xFF 30) := by decide
theorem test_decode_write_burst :
    decode cfg .radio [0b011, 0x7F, 0x05, 0x09, 0x05, 0xEF, 0xBE, 0x00] =
      .ok (.writeBurst 0x7F [0x05, 0x09, 0x05, 0xEF, 0xBE, 0x00]) := by decide
theorem test_decode_strobe : decode cfg .radio [0b100, 0x34] = .ok (.strobe 0x34) := by decide
theorem test_decode_reserved_kind : decode cfg .radio [0b101] = .error (.reservedKind 5) := by decide

/-- R108: byte 0 of a FRAME word is its top byte. -/
theorem test_table_frame_ack : decodeTableWord 48 0x050905EFBE00 = some (.frameAck 0x09 0x05 0xBEEF) := by decide
theorem test_table_frame_msg : decodeTableWord 48 0x000000000001 = some (.frameMsg 0 0 0 0 []) := by decide
theorem test_table_get_version : decodeTableWord 8 4 = some .getVersion := by decide

/-- V4: the longest frame. -/
theorem test_encode_msg_longest :
    encode cfg (.frameMsg 0x01 0x7E 0x1234 0x10 ((List.range 32).map (BitVec.ofNat 8))) =
      [0x27, 0x01, 0x7E, 0x34, 0x12, 0x01, 0x10, 0x20] ++ (List.range 32).map (BitVec.ofNat 8) := by decide

/-! ## WellFormed (V8) -/

/-- The result of DecodeOne on a burst. -/
def found (bs : Bytes) : Option (Found × Nat) :=
  (decodeOne { setup with rxBuf := Memory.store [] 0 bs } 0 bs.length).toOption

theorem test_short_header : found [0x00, 0x11, 0x22] = some (.malformed .shortHeader, 3) := by decide
theorem test_truncated :
    found [0x09, 0x05, 0x09, 0xEF, 0xBE, 0x01, 0x01, 0x02] = some (.malformed .truncated, 12) := by decide
theorem test_ack_length :
    found [0x06, 0x05, 0x09, 0xEF, 0xBE, 0x00, 0x00, 0x2F, 0x80] = some (.malformed .ackLength, 9) := by decide
theorem test_msg_short :
    found [0x06, 0x05, 0x09, 0xEF, 0xBE, 0x01, 0x02, 0x2F, 0x80] = some (.malformed .msgShort, 9) := by decide
theorem test_data_len :
    found ([0x28, 0x05, 0x09, 0xEF, 0xBE, 0x01, 0x02, 0x21] ++ List.replicate 33 0 ++ [0x2F, 0x80]) =
      some (.malformed .dataLen, 43) := by decide
theorem test_length_mismatch :
    found [0x08, 0x05, 0x09, 0xEF, 0xBE, 0x01, 0x02, 0x03, 0x11, 0x2F, 0x80] =
      some (.malformed .lengthMismatch, 11) := by decide
theorem test_reserved_type :
    found [0x05, 0x05, 0x09, 0xEF, 0xBE, 0x02, 0x2F, 0x80] = some (.malformed .reservedType, 8) := by decide
theorem test_trailer_missing :
    found [0x05, 0x05, 0x09, 0xEF, 0xBE, 0x00, 0x2F] = some (.malformed .truncated, 8) := by decide

/-! ## Commands -/

/-- V15: an address of 127, and both operands invalid. -/
theorem test_init_addr_127 :
    after (exec (.init 127 3 0xBEEF) fresh) (fun t => rspCode t == some (false, .cfgAddr) && t.deviceAddress == 0) = true := by
  decide
theorem test_init_power_9 :
    after (exec (.init 5 9 0xBEEF) fresh) (fun t => rspCode t == some (false, .cfgPower)) = true := by decide
/-- V14. -/
theorem test_init_ok :
    after (run 7 (withEnv (offer fresh [0, 5, 3, 0xEF, 0xBE]) [] [0x0D] []))
      (fun t => rspCode t == some (true, .ok) && t.engState == .receiving && t.messageSignature == 0xBEEF &&
        t.hist == [.accepted 0, .configure 3, .strobe 0x34, .readReg 0x35 0x0D, .response ⟨true, .ok, .nothing⟩]) = true := by
  decide
/-- V16: gating before the operand check. -/
theorem test_post_before_init :
    after (exec (.postMessage 9 1 40 (List.replicate 32 0) 0) fresh) (fun t => rspCode t == some (false, .notInit)) = true := by
  decide
/-- V16: a reserved code. -/
theorem test_reserved_refused :
    after (step (offer fresh [6])) (fun t => rspCode t == some (false, .reservedCmd) && t.busy == false) = true := by decide
/-- V18. -/
theorem test_post_data_too_long :
    after (exec (.postMessage 9 1 33 (List.replicate 32 0) 2) setup)
      (fun t => rspCode t == some (false, .dataTooLong) && t.txLen == 0) = true := by decide
/-- V17: broadcast. -/
theorem test_post_broadcast :
    after (run 11 (withEnv (offer setup ([3, 0, 2, 3, 0x11, 0x22, 0x33] ++ List.replicate 29 0 ++ [7])) [] [0x01, 0x0D] []))
      (fun t => rspCode t == some (true, .ok) && t.engState == .receiving && !t.awaitValid && t.txLen == 11 &&
        attemptsIn cfg t.hist == 1 &&
        (memRead t .tx 0 11).toOption == some [0x0A, 0x00, 0x05, 0xEF, 0xBE, 0x01, 0x02, 0x03, 0x11, 0x22, 0x33]) = true := by
  decide
/-- V19: no retry, no ACK. -/
theorem test_post_unacknowledged :
    after (run 13 (withEnv (offer setup ([3, 9, 2, 3, 0x11, 0x22, 0x33] ++ List.replicate 29 0 ++ [0])) [false] [0x01, 0x0D] []))
      (fun t => rspCode t == some (false, .deliveryFail) && t.attempt == 1 && !t.awaitValid) = true := by decide
/-- V21: the ACK at the first attempt. -/
theorem test_post_acknowledged :
    after (run 21 (withEnv (offer setup ([3, 9, 2, 3, 0x11, 0x22, 0x33] ++ List.replicate 29 0 ++ [2])) [true] [0x01, 0x0D, 0x08]
        [0x05, 0x05, 0x09, 0xEF, 0xBE, 0x00, 0x2F, 0x80]))
      (fun t => rspCode t == some (true, .ok) && t.attempt == 0 && !t.ackSeen && !t.awaitValid && t.count == 0) = true := by
  decide
/-- V22. -/
theorem test_poll_line_low :
    after (exec .poll (withEnv setup [false] [] [])) (fun t => rspCode t == some (false, .ok) && t.todo.isEmpty) = true := by
  decide
/-- V24: overflow, by the condition and by a count above the capacity. -/
theorem test_poll_overflow :
    after (run 9 (withEnv (offer setup [1]) [true] [0x91, 0x0D] []))
      (fun t => rspCode t == some (false, .rxOverflow) &&
        t.hist.contains (.raised (.rxOverflow true 17)) && t.hist.contains (.strobe 0x3A)) = true := by decide
theorem test_poll_count_above_fifo :
    after (run 9 (withEnv (offer setup [1]) [true] [65, 0x0D] []))
      (fun t => rspCode t == some (false, .rxOverflow)) = true := by decide
/-- V12. -/
theorem test_get_version :
    after (run 3 (withEnv (offer fresh [4]) [] [0x14] [])) (fun t => t.rsp == some ⟨true, .ok, .value 0x14⟩) = true := by
  decide
theorem test_get_partnumber :
    after (run 3 (withEnv (offer fresh [5]) [] [0x00] [])) (fun t => t.rsp == some ⟨true, .ok, .value 0x00⟩ &&
      t.hist.contains (.readReg 0x30 0x00)) = true := by decide
theorem test_get_message_empty :
    after (exec .getMessage setup) (fun t => rspCode t == some (false, .queueEmpty) &&
      t.hist == [.accepted 2, .response ⟨false, .queueEmpty, .nothing⟩] && t.eventsShown == [.queueEmpty]) = true := by decide

/-! ## Frames -/

/-- V25 row a: the ACK goes out before the push. -/
theorem test_frame_msg_acknowledged :
    after (exec (.frameMsg 5 9 0xBEEF 3 [0x55]) setup)
      (fun t => t.engState == .transmitting && t.count == 0 &&
        t.todo.head? == some (.issue (.writeBurst 0x7F [0x05, 0x09, 0x05, 0xEF, 0xBE, 0x00]))) = true := by decide
/-- V25 row c: broadcast is pushed without an ACK. -/
theorem test_frame_msg_broadcast :
    after (exec (.frameMsg 0 9 0xBEEF 3 [0x55]) setup) (fun t => t.engState == .receiving &&
      t.todo == [.enqueue ([0x08, 0x00, 0x09, 0xEF, 0xBE, 0x01, 0x03, 0x01, 0x55] ++ List.replicate 31 0) 9]) = true := by decide
/-- V25 row i. -/
theorem test_frame_wrong_token :
    after (exec (.frameMsg 5 9 0xBFEF 3 [0x55]) setup) (fun t => t.todo.isEmpty &&
      t.hist == [.raised (.tokenMismatch 0xBFEF)]) = true := by decide
/-- V25 rows d and h. -/
theorem test_frame_ack_matched :
    after (exec (.frameAck 5 9 0xBEEF) { setup with awaitValid := true, awaitAddr := 9 }) (fun t => t.ackSeen && t.todo.isEmpty) =
      true := by decide
theorem test_frame_ack_for_another_node :
    after (exec (.frameAck 7 9 0xBEEF) { setup with awaitValid := true, awaitAddr := 9 })
      (fun t => !t.ackSeen && t.engState == .transmitting) = true := by decide

/-! ## The queue (V28) -/

def pageA : Bytes := List.replicate 40 0xAA
def pageB : Bytes := List.replicate 40 0xBB

/-- The state after some pushes. -/
def pushed (s : State) : List Bytes → State
  | [] => s
  | P :: Ps =>
    match push s P with
    | .ok (_, s) => pushed s Ps
    | .error _ => s

theorem test_push_two :
    (fun t : State => t.head == some 0 && t.tail == some 1 && t.count == 2 && t.nextLink.take 2 == [1, 0] &&
      queueContents t == [pageA, pageB]) (pushed setup [pageA, pageB]) = true := by decide
theorem test_pull_first :
    (match pull (pushed setup [pageA, pageB]) with
     | .ok (some P, t) => P == pageA && t.head == some 1 && t.nextLink.getD 1 31 == 1 && t.count == 1
     | _ => false) = true := by decide
/-- V30. -/
theorem test_message_of_page :
    messageOf ([0x09, 0x05, 0x09, 0xEF, 0xBE, 0x01, 0x01, 0x02, 0xAA, 0xBB] ++ List.replicate 30 0) =
      .message 0x09 0x01 0x02 ([0xAA, 0xBB] ++ List.replicate 30 0) := by decide

/-! ## Faults and reset -/

/-- V31: three reads, then the timeout. -/
theorem test_spin_limit :
    after (run 8 (withEnv { setup with cfg := { cfg with spinLimit := some 3 }, todo := [.confirm .txDone], busy := true }
        [] [0x13, 0x13, 0x13] []))
      (fun t => t.fault && rspCode t == some (false, .radioTimeout) && !t.busy) = true := by decide
/-- V31: a success on the last read is a success. -/
theorem test_spin_limit_last_read :
    after (run 7 (withEnv { setup with cfg := { cfg with spinLimit := some 3 }, todo := [.confirm .txDone], busy := true }
        [] [0x13, 0x13, 0x01] []))
      (fun t => !t.fault && t.todo.isEmpty) = true := by decide
/-- V35. -/
theorem test_reset_pin :
    after (step { pushed setup [pageA] with resetPin := true, busy := true, todo := [.wait] })
      (fun t => t.count == 0 && t.engState == .idle && !t.busy && t.todo.isEmpty && t.deviceAddress == 0) = true := by decide

/-! ## The radio port -/

theorem test_read_reg :
    after (exec (.readReg 0x35) (withEnv setup [] [0x0D] [])) (fun t => t.rdData == 0x0D && t.env.regs.isEmpty) = true := by
  decide
theorem test_write_reg : after (exec (.writeReg 2 7) setup) (fun t => t.hist == [.writeReg 2 7]) = true := by decide
theorem test_read_burst :
    after (exec (.readBurst 0xFF 2) (withEnv setup [] [] [1, 2, 3])) (fun t => t.rdBurst == [1, 2] && t.env.fifo == [3]) =
      true := by decide
theorem test_write_burst :
    after (exec (.writeBurst 0x7F [5, 9, 5, 0xEF, 0xBE, 0]) setup) (fun t => t.hist == [.writeBurst 0x7F [5, 9, 5, 0xEF, 0xBE, 0]]) =
      true := by decide
theorem test_strobe : after (exec (.strobe 0x35) setup) (fun t => t.hist == [.strobe 0x35]) = true := by decide

/-! ## Witnesses: states and operands that meet the premises of the statements -/

/-- The burst of V20's first frame, and more, lying in the receive buffer. -/
def received (bs : Bytes) : State :=
  { setup with rxBuf := Memory.store [] 0 bs, rxLen := bs.length, rxOff := 0, rxRem := bs.length }

/-- A page with a message of two bytes from node 9. -/
def page9 : Bytes := [0x09, 0x05, 0x09, 0xEF, 0xBE, 0x01, 0x01, 0x02, 0xAA, 0xBB] ++ List.replicate 30 0

/-- One message queued. -/
def queued : State := pushed setup [page9]

/-- POST_MESSAGE to node 9 in its window, one message queued. -/
def waiting : State :=
  { queued with
    busy := true, engState := .awaitingAck, awaitValid := true, awaitAddr := 9
    latch := { Latches.reset with opCode := 3, opRecipient := 9, opDataLen := 1, maxRetriesR := 2 }
    txBuf := Memory.store [] 0 (encodeMsg cfg 9 5 0xBEEF 2 1 [0x11]), txLen := 9
    todo := [.wait, .pollCycle .post], hist := [.accepted 3] }

/-- Twenty pages taken. -/
def full : State := { setup with count := 20, occupied := List.replicate 20 true }

def faulted : State := { setup with fault := true, cfg := { cfg with spinLimit := some 1 } }

theorem ring_setup : Ring setup [] :=
  { flags := rfl, links := rfl, nodup := by decide, occupied := by decide, below := by decide, count := rfl, head := rfl
    tail := rfl, next := by decide, full := by simp }

theorem ring_queued : Ring queued [0] :=
  { flags := by decide, links := by decide, nodup := by decide, occupied := by decide, below := by decide, count := by decide
    head := by decide, tail := by decide, next := by decide
    full := by
      intro p hp
      obtain rfl := List.mem_singleton.mp hp
      exact ⟨page9, by decide, by decide⟩ }

theorem control_setup : ControlOk setup :=
  { busy := rfl, faultEnds := fun _ => rfl, acts := fun _ h => (by cases h), lastOnly := fun _ h => (by cases h)
    phase := .inr (.inr rfl), burst := fun h => (by cases h) }

theorem control_waiting : ControlOk waiting where
  busy := by decide
  faultEnds h := absurd h (by decide)
  acts a h := by
    rcases List.mem_cons.mp h with rfl | h
    · trivial
    · rcases List.mem_cons.mp h with rfl | h
      · trivial
      · cases h
  lastOnly := by decide
  phase := ⟨by decide, by decide⟩
  burst h := absurd h (by decide)

theorem good_waiting : Good waiting where
  config := by decide
  memory sp := by
    cases sp with
    | page _ => exact (by decide : waiting.pages.wf = true ∧ ∀ cell ∈ waiting.pages, cell.1 < 800)
    | _ => decide
  buffers := by refine ⟨⟨?_, ?_⟩, ?_, ?_⟩ <;> decide
  cursor := by unfold CursorOk; decide
  queue := by
    refine ⟨[0], { flags := by decide, links := by decide, nodup := by decide, occupied := by decide, below := by decide
                   count := by decide, head := by decide, tail := by decide, next := by decide, full := ?_ }⟩
    intro p hp
    obtain rfl := List.mem_singleton.mp hp
    exact ⟨page9, by decide, by decide⟩
  control := control_waiting
  identity := ⟨fun _ => by decide, fun h => absurd h (by decide)⟩
  ack :=
    { posting := fun _ => by decide
      between := fun h => absurd ⟨.pollCycle .post, by decide, rfl⟩ h
      seen := fun h => absurd h (by decide) }
  spin _ := by decide

/-! ### Reset, encodings -/

theorem witness_ResetAbandonsTheCommand : ({ waiting with resetPin := true } : State).resetPin = true := rfl

theorem witness_DecodeOfEncode : cfg.ptAck ≠ cfg.ptMsg ∧ (Instr.frameMsg 9 5 0xBEEF 2 (List.replicate 32 0)).wf cfg = true ∧
    (Instr.postMessage 9 2 3 (List.replicate 32 0) 255).wf cfg = true ∧ (Instr.readBurst 0xFF 64).wf cfg = true ∧
    (Instr.writeBurst 0x7F (List.replicate 40 0)).wf cfg = true := by decide

theorem witness_EncodeOfDecode : decode cfg .cmd [0b000, 0x05, 0x03, 0xEF, 0xBE] = .ok (.init 0x05 0x03 0xBEEF) := by decide

theorem witness_WordsDecodeAsTheTableSays : cfg.ptAck = 0x00 ∧ cfg.ptMsg = 0x01 ∧ cfg.tokenLe = true ∧ cfg.fifoCap = 64 := by
  decide

theorem witness_LengthByteCountsWhatFollows :
    (Instr.frameMsg 9 5 0xBEEF 2 []).format = .frame ∧ (Instr.frameMsg 9 5 0xBEEF 2 (List.replicate 32 0)).wf cfg = true := by
  decide

theorem witness_ReceivedFrameRoundTrip : setup.cfg.ptAck ≠ setup.cfg.ptMsg ∧
    (Instr.frameMsg 9 5 0xBEEF 2 (List.replicate 32 7)).wf setup.cfg = true ∧
    ∃ t, memWrite setup .rx 0 (encode setup.cfg (.frameMsg 9 5 0xBEEF 2 (List.replicate 32 7)) ++ [0x2F, 0x80]) = .ok t :=
  ⟨by decide, by decide, _, rfl⟩

theorem witness_DecodeOneAcceptsExactlyFrames :
    decodeOne (received [0x05, 0x05, 0x09, 0xEF, 0xBE, 0x00, 0x2F, 0x80]) 0 8 = .ok (.frame (.frameAck 5 9 0xBEEF), 8) := by
  decide

theorem witness_ConsumedIsLengthPlusThree : decodeOne (received [0xFF]) 0 1 = .ok (.malformed .truncated, 258) := by decide

/-- The premises of the seven clauses, at the boundary of each. -/
theorem witness_MalformedReasonsInOrder :
    readByte (received [0x04]) .rx 0 = some 4 ∧ readByte (received [0x05, 1, 2, 3, 4, 5, 6]) .rx 0 = some 5 ∧
    (memRead (received [0x06, 5, 9, 0xEF, 0xBE, 0x00, 0, 0, 0]) .rx 0 7).toOption.bind (·[5]?) = some cfg.ptAck ∧
    (memRead (received [0x06, 5, 9, 0xEF, 0xBE, 0x01, 2, 0, 0]) .rx 0 7).toOption.bind (·[5]?) = some cfg.ptMsg ∧
    (memRead (received [0x07, 5, 9, 0xEF, 0xBE, 0x01, 2, 33, 0, 0]) .rx 0 8).toOption.bind (·[7]?) = some 33 ∧
    (memRead (received [0x08, 5, 9, 0xEF, 0xBE, 0x01, 2, 32, 0, 0, 0]) .rx 0 9).toOption.bind (·[7]?) = some 32 ∧
    (memRead (received [0x05, 5, 9, 0xEF, 0xBE, 0x02, 0, 0]) .rx 0 6).toOption.bind (·[5]?) = some 2 := by decide

/-! ### Steps -/

theorem witness_StepRunsTheDecodedInstruction :
    (let s := offer setup [1]
     s.resetPin = false ∧ s.todo = [] ∧ s.busy = false ∧ s.cmdPort = [[1]] ∧ decode s.cfg .cmd [1] = .ok .poll) ∧
    (let s := { received [0x05, 0x05, 0x09, 0xEF, 0xBE, 0x00, 0x2F, 0x80] with todo := [.split] }
     s.resetPin = false ∧ s.todo = .split :: [] ∧ 0 < s.rxRem ∧
       decodeOne s s.rxOff s.rxRem = .ok (.frame (.frameAck 5 9 0xBEEF), 8)) ∧
    (let s := { setup with todo := [.issue (.strobe 0x35)] }
     s.resetPin = false ∧ s.todo = .issue (.strobe 0x35) :: [] ∧ s.env.completions ≠ some 0) := by decide

theorem witness_BusyPortAcceptsNothing : waiting.busy = true ∧ waiting.resetPin = false ∧ ∃ t, step waiting = .next t :=
  ⟨by decide, by decide, _, rfl⟩

theorem witness_OneResponsePerAcceptedCommand : Good waiting ∧ HistoryBalanced waiting ∧ ∃ t, step waiting = .next t :=
  ⟨good_waiting, by unfold HistoryBalanced; decide, _, rfl⟩

theorem witness_HungBlockNeverMoves :
    let s := { setup with todo := [.issue (.strobe 0x35)], env := { setup.env with completions := some 0 } }
    s.resetPin = false ∧ s.hung := ⟨rfl, _, _, rfl, rfl, rfl⟩

/-! ### Refusals -/

theorem witness_FaultedRefusesEveryCommand : faulted.fault = true ∧ Instr.poll.format = .cmd ∧
    (encode faulted.cfg .poll).head? = some ((1 : BitVec 3).setWidth 8) ∧
    (let s := offer faulted [7]
     s.resetPin = false ∧ s.todo = [] ∧ s.busy = false ∧ s.cmdPort = [[7]] ∧
       decode s.cfg .cmd [7] = .error (.reservedOp 7) ∧ s.fault = true ∧ ∃ t, step s = .next t) :=
  ⟨rfl, rfl, rfl, rfl, rfl, rfl, rfl, by decide, rfl, _, rfl⟩

theorem witness_GatingRefusesByState :
    (fresh.fault = false ∧ fresh.engState = .idle) ∧ (setup.fault = false ∧ setup.engState ≠ .idle) ∧
    (let s := offer setup [6]
     s.resetPin = false ∧ s.todo = [] ∧ s.busy = false ∧ s.cmdPort = [[6]] ∧
       decode s.cfg .cmd [6] = .error (.reservedOp 6) ∧ s.fault = false) := by decide

/-- Addresses 0, 127 and 255 with any power, 1 and 126 with the powers 0 and 9. -/
theorem witness_InitRejectsBadOperands : fresh.fault = false ∧ fresh.engState = .idle ∧
    ((0 : Byte).toNat < 1 ∧ 126 < (127 : Byte).toNat ∧ 126 < (255 : Byte).toNat) ∧
    (1 ≤ (1 : Byte).toNat ∧ (126 : Byte).toNat ≤ 126 ∧ fresh.cfg.powerValid 0 = false ∧ fresh.cfg.powerValid 9 = false) := by
  decide

/-! ### Commands and the radio -/

theorem witness_InitCompletes :
    let s := withEnv fresh [] [0x0D] []
    s.resetPin = false ∧ s.fault = false ∧ s.engState = .idle ∧ s.radioCompletes ∧ 1 ≤ (1 : Byte).toNat ∧
      (126 : Byte).toNat ≤ 126 ∧ s.cfg.powerValid 8 = true ∧ s.env.regs = [0x0D] ∧ awaitedState s .rxArmed 0x0D = true :=
  ⟨rfl, rfl, rfl, rfl, by decide, by decide, by decide, rfl, by decide⟩

theorem witness_OnlyInitWritesTheIdentity :
    let s := offer fresh [0, 5, 3, 0xEF, 0xBE]
    ControlOk s ∧ s.resetPin = false ∧ ∃ t, step s = .next t ∧
      (t.deviceAddress, t.outputPower, t.messageSignature) ≠ (s.deviceAddress, s.outputPower, s.messageSignature) :=
  ⟨{ busy := rfl, faultEnds := fun _ => rfl, acts := fun _ h => (by cases h), lastOnly := fun _ h => (by cases h)
     phase := .inr (.inl rfl), burst := fun h => (by cases h) }, rfl, _, rfl, by decide⟩

theorem witness_DiagnosticsAnswerTheByte :
    let s := withEnv fresh [] [0x14] []
    s.resetPin = false ∧ s.fault = false ∧ s.radioCompletes ∧ s.env.regs = [0x14] := ⟨rfl, rfl, rfl, rfl⟩

theorem witness_ReadsReturnTheAnswer :
    (withEnv setup [] [7] [1, 2, 3]).env.regs = [7] ∧ (withEnv setup [] [7] [1, 2, 3]).env.fifo = [1, 2] ++ [3] := ⟨rfl, rfl⟩

theorem witness_ConfirmReturnsAfterAnyReads :
    let s := { withEnv setup [] [0x13, 0x14, 0x01] [] with todo := [.confirm .txDone] }
    s.resetPin = false ∧ s.todo = .confirm .txDone :: [] ∧ s.cfg.spinLimit = none ∧ s.radioCompletes ∧
      s.env.regs = [0x13, 0x14] ++ 0x01 :: [] ∧ (∀ b ∈ ([0x13, 0x14] : Bytes), awaitedState s .txDone b = false) ∧
      awaitedState s .txDone 0x01 = true := ⟨rfl, rfl, rfl, rfl, rfl, by decide, by decide⟩

/-- V31: success on the third of at most three reads. -/
theorem witness_ConfirmReturnsWithinTheLimit :
    let s := { withEnv setup [] [0x13, 0x14, 0x01] [] with todo := [.confirm .txDone], cfg := { cfg with spinLimit := some 3 } }
    s.resetPin = false ∧ s.todo = .confirm .txDone :: [] ∧ s.cfg.spinLimit = some 3 ∧ s.radioCompletes ∧
      s.env.regs = [0x13, 0x14] ++ 0x01 :: [] ∧ ([0x13, 0x14] : Bytes).length < 3 ∧
      (∀ b ∈ ([0x13, 0x14] : Bytes), awaitedState s .txDone b = false) ∧ awaitedState s .txDone 0x01 = true ∧
      after (run 7 s) (fun u => u.todo.isEmpty && !u.fault && u.spinCount == 2) = true :=
  ⟨rfl, rfl, rfl, rfl, rfl, by decide, by decide, by decide, by decide⟩

/-- The least limit. -/
theorem witness_ConfirmTimesOutAtTheLimit :
    let s := { withEnv setup [] [0x13] [] with todo := [.confirm .txDone], cfg := { cfg with spinLimit := some 1 } }
    s.resetPin = false ∧ s.todo = .confirm .txDone :: [] ∧ s.cfg.spinLimit = some 1 ∧ 1 ≤ 1 ∧ s.radioCompletes ∧
      ([0x13] : Bytes).length = 1 ∧ s.env.regs = [0x13] ++ [] ∧
      (∀ b ∈ ([0x13] : Bytes), awaitedState s .txDone b = false) := ⟨rfl, rfl, rfl, by decide, rfl, rfl, rfl, by decide⟩

theorem witness_SpinWithoutLimitNeverEnds :
    let s := { withEnv setup [] [0x13, 0x13] [] with
      busy := true, todo := [.issue (.readReg cfg.radio.regMarcstate), .test .txDone, .initDone] }
    s.resetPin = false ∧ s.todo = .issue (.readReg s.cfg.radio.regMarcstate) :: .test .txDone :: [.initDone] ∧
      s.cfg.spinLimit = none ∧ s.radioCompletes ∧ s.busy = true ∧ s.env.regs = [0x13, 0x13] ∧
      (∀ b ∈ ([0x13, 0x13] : Bytes), awaitedState s .txDone b = false) := ⟨rfl, rfl, rfl, rfl, rfl, rfl, by decide⟩

/-- A radio that reports both states at the first reads. -/
def prompt (s : State) (line : List Bool) : State := withEnv s line [0x01, 0x0D] []

theorem witness_TransmitSequenceInOrder :
    let s := { prompt setup [] with todo := transmitActs cfg [5, 9, 5, 0xEF, 0xBE, 0] ++ [.afterTransmit] }
    s.resetPin = false ∧ s.todo = transmitActs s.cfg [5, 9, 5, 0xEF, 0xBE, 0] ++ [.afterTransmit] ∧ s.radioCompletes ∧
      s.env.regs = 0x01 :: 0x0D :: [] ∧ awaitedState s .txDone 0x01 = true ∧ awaitedState s .rxArmed 0x0D = true :=
  ⟨rfl, rfl, rfl, rfl, by decide, by decide⟩

/-! ### Reception -/

theorem witness_PollWithoutBurst :
    (let s := withEnv queued [false] [] []
     s.fault = false ∧ s.engState ≠ .idle ∧ s.env.line = false :: []) ∧
    (let s := withEnv setup [true] [0] []
     s.resetPin = false ∧ s.fault = false ∧ s.engState ≠ .idle ∧ s.todo = [] ∧ s.env.completions = none ∧
       s.env.line = true :: [] ∧ s.env.regs = 0 :: [] ∧ s.cfg.rxCountDecode 0 = (false, 0)) := by decide

/-- The overflow bit alone, and the least count above the capacity alone. -/
theorem witness_PollOverflowFlushes :
    let s := withEnv setup [true] [0x91, 0x0D] []
    s.resetPin = false ∧ s.fault = false ∧ s.engState ≠ .idle ∧ s.todo = [] ∧ s.radioCompletes ∧ s.env.line = true :: [] ∧
      s.env.regs = 0x91 :: 0x0D :: [] ∧ (s.cfg.rxCountDecode 0x91).1 = true ∧ s.cfg.fifoCap < (s.cfg.rxCountDecode 65).2 ∧
      awaitedState s .rxArmed 0x0D = true :=
  ⟨rfl, rfl, by decide, rfl, rfl, rfl, rfl, by decide, by decide, by decide⟩

/-- A burst as long as the capacity. -/
theorem witness_PollReadsTheBurst :
    let B : Bytes := List.replicate 64 7
    let s := withEnv setup [true] [64] B
    s.resetPin = false ∧ s.fault = false ∧ s.engState ≠ .idle ∧ s.todo = [] ∧ s.radioCompletes ∧ s.env.line = true :: [] ∧
      s.env.regs = 64 :: [] ∧ s.env.fifo = B ++ [] ∧ s.cfg.rxCountDecode 64 = (false, B.length) ∧ B ≠ [] ∧
      B.length ≤ s.cfg.fifoCap :=
  ⟨rfl, rfl, by decide, rfl, rfl, rfl, rfl, rfl, by decide, by decide, by decide⟩

/-- The poll cycle of POST_MESSAGE: the line not asserted, a count of 0, an overflow, a burst as long as the capacity. -/
theorem witness_PollCycleOfPost :
    (let s := { withEnv waiting [false] [] [] with todo := [.pollCycle .post] }
     s.resetPin = false ∧ s.todo = .pollCycle .post :: [] ∧ s.env.line = false :: []) ∧
    (let s := { withEnv waiting [true] [0, 0x0D] (List.replicate 64 7) with todo := [.pollCycle .post] }
     s.resetPin = false ∧ s.todo = .pollCycle .post :: [] ∧ s.env.completions = none ∧ s.env.line = true :: [] ∧
       s.env.regs = 0 :: 0x0D :: [] ∧ s.env.fifo = List.replicate 64 7 ++ [] ∧ s.cfg.rxCountDecode 0 = (false, 0) ∧
       (s.cfg.rxCountDecode 0x91).1 = true ∧ awaitedState s .rxArmed 0x0D = true ∧
       s.cfg.rxCountDecode 64 = (false, (List.replicate 64 (7 : Byte)).length)) := by decide

/-- The end of a POLL: the cursor past the burst, and a queue that is not empty. -/
theorem witness_PollEnds :
    (let s := { setup with todo := [.advance 12, .split, .endCycle .poll false], rxRem := 12 }
     s.resetPin = false ∧ s.todo = .advance 12 :: [.split, .endCycle .poll false]) ∧
    (let s := { setup with todo := [.split, .endCycle .poll false], rxRem := -246 }
     s.resetPin = false ∧ s.todo = .split :: [.endCycle .poll false] ∧ s.rxRem ≤ 0) ∧
    (let s := { queued with todo := [.endCycle .poll false] }
     s.resetPin = false ∧ s.todo = [.endCycle .poll false] ∧
       after (step s) (fun t => rspCode t == some (true, .ok)) = true) := by decide

/-- A burst of one message of 32 bytes to broadcast, one page taken. -/
theorem witness_PollQueuesABroadcast :
    let d : Bytes := List.replicate 32 5
    let B := encode cfg (.frameMsg 0 9 0xBEEF 1 d) ++ [7, 8]
    let s := { queued with rxBuf := Memory.store [] 0 B, rxLen := 42, rxRem := 42, todo := [.split, .endCycle .poll false] }
    s.resetPin = false ∧ s.cfg.ptAck ≠ s.cfg.ptMsg ∧ QueueOk s ∧ s.count < 20 ∧ d.length ≤ 32 ∧
      s.todo = [.split, .endCycle .poll false] ∧ s.rxOff = 0 ∧ s.rxRem = ((8 + d.length + 2 : Nat) : Int) ∧
      memRead s .rx 0 (8 + d.length + 2) = .ok (encode s.cfg (.frameMsg 0 9 s.messageSignature 1 d) ++ [7, 8]) :=
  ⟨by decide, by decide,
    ⟨_, ring_queued.congr rfl rfl rfl rfl rfl rfl rfl⟩,
    by decide, by decide, rfl, by decide, by decide, by decide⟩

theorem witness_MalformedFrameIsDiscarded :
    let s := { received [0x04, 1, 2] with todo := [.split, .endCycle .poll false] }
    s.resetPin = false ∧ s.todo = .split :: [.endCycle .poll false] ∧ 0 < s.rxRem ∧
      decodeOne s s.rxOff s.rxRem = .ok (.malformed .shortHeader, 7) := by decide

theorem witness_WrongTokenIsDiscarded : (0xBFEF : Half) ≠ setup.messageSignature := by decide

/-- The four conditions met; each alone not met; a MSG frame. -/
theorem witness_MatchedAckSetsTheMark :
    (0xBEEF : Half) = waiting.messageSignature ∧ (5 : Byte) = waiting.deviceAddress ∧ waiting.awaitValid = true ∧
      (9 : Byte) = waiting.awaitAddr ∧ setup.awaitValid = false ∧
      (∃ t, exec (.frameAck 5 8 0xBEEF) waiting = .next t) ∧ ∃ t, exec (.frameMsg 5 9 0xBEEF 1 []) waiting = .next t :=
  ⟨by decide, by decide, by decide, by decide, by decide, ⟨_, rfl⟩, _, rfl⟩

theorem witness_UnansweredFrames :
    (0xBEEF : Half) = setup.messageSignature ∧
      ¬ ((0 : Byte) = setup.deviceAddress ∧ setup.awaitValid = true ∧ (9 : Byte) = setup.awaitAddr) ∧
      ({ cfg with replyToUnmatchedAck := false } : Config).replyToUnmatchedAck = false := by decide

theorem witness_UnmatchedAckIsAnswered :
    let s := prompt setup []
    s.resetPin = false ∧ s.radioCompletes ∧ (0xBEEF : Half) = s.messageSignature ∧
      ¬ ((5 : Byte) = s.deviceAddress ∧ s.awaitValid = true ∧ (9 : Byte) = s.awaitAddr) ∧ (5 : Byte) ≠ 0 ∧
      s.cfg.replyToUnmatchedAck = true ∧ s.env.regs = 0x01 :: 0x0D :: [] ∧ awaitedState s .txDone 0x01 = true ∧
      awaitedState s .rxArmed 0x0D = true := ⟨rfl, rfl, rfl, by decide, by decide, rfl, rfl, by decide, by decide⟩

/-- For this node and for another. -/
theorem witness_MessageIsAcknowledgedThenPushed :
    let s := prompt setup []
    s.resetPin = false ∧ s.radioCompletes ∧ (0xBEEF : Half) = s.messageSignature ∧ s.deviceAddress ≠ 0 ∧ (7 : Byte) ≠ 0 ∧
      s.env.regs = 0x01 :: 0x0D :: [] ∧ awaitedState s .txDone 0x01 = true ∧ awaitedState s .rxArmed 0x0D = true :=
  ⟨rfl, rfl, rfl, by decide, by decide, rfl, by decide, by decide⟩

theorem witness_AckIsNeverEnqueued :
    let s := { setup with todo := [.enqueue page9 9, .split, .endCycle .poll false] }
    ∃ t, exec (.frameAck 5 8 0xBEEF) s = .next t ∧ .enqueue page9 9 ∈ t.todo := ⟨_, rfl, by decide⟩

theorem witness_PageImageIsFrameThenZeros : (List.replicate 32 (7 : Byte)).length ≤ 32 ∧ 8 + ([] : Bytes).length ≤ 39 := by decide

/-! ### The queue -/

theorem witness_PushAppends :
    QueueOk queued ∧ queued.count < 20 ∧ page9.length = 40 ∧ (page9.getD 7 0).toNat ≤ 32 :=
  ⟨⟨_, ring_queued⟩, by decide, by decide, by decide⟩

/-- The step that pushes, with one page taken. -/
theorem witness_PushStep :
    let s := { queued with todo := [.enqueue page9 9] }
    s.resetPin = false ∧ s.todo = .enqueue page9 9 :: [] ∧ QueueOk s ∧ s.count < 20 ∧ page9.length = 40 ∧
      (page9.getD 7 0).toNat ≤ 32 ∧
      after (step s) (fun t => queueContents t == [page9, page9] && t.todo.isEmpty) = true :=
  ⟨by decide, rfl, ⟨_, ring_queued.congr rfl rfl rfl rfl rfl rfl rfl⟩, by decide, by decide, by decide, by decide⟩

theorem witness_PullTakesTheOldest : QueueOk queued ∧ queued.count ≠ 0 := ⟨⟨_, ring_queued⟩, by decide⟩

theorem witness_PushThenPull : QueueOk setup ∧ setup.count = 0 ∧ pageA.length = 40 := ⟨⟨_, ring_setup⟩, rfl, rfl⟩

theorem witness_GetMessageAnswersTheOldest : QueueOk queued ∧ queued.fault = false ∧ queueContents queued = page9 :: [] :=
  ⟨⟨_, ring_queued⟩, by decide, by decide⟩

theorem witness_GetMessageOnEmptyAnswersNone : fresh.fault = false ∧ fresh.count = 0 := ⟨rfl, rfl⟩

theorem witness_FullQueueDropsTheNewest :
    let s := { full with todo := [.enqueue page9 9] }
    s.resetPin = false ∧ s.todo = .enqueue page9 9 :: [] ∧ s.count = 20 := ⟨rfl, rfl, rfl⟩

/-! ### POST_MESSAGE -/

theorem witness_PostRejectsLongData : setup.fault = false ∧ setup.engState ≠ .idle ∧ 32 < (33 : Byte).toNat := by decide

theorem witness_PostBuildsTheFrame : setup.fault = false ∧ setup.engState ≠ .idle ∧ setup.todo = [] ∧
    (List.replicate 32 (7 : Byte)).length = 32 ∧ (32 : Byte).toNat ≤ 32 := by decide

theorem witness_BroadcastSucceedsAfterOneAttempt :
    let s := prompt setup []
    s.resetPin = false ∧ s.fault = false ∧ s.engState ≠ .idle ∧ s.todo = [] ∧ s.radioCompletes ∧
      (List.replicate 32 (7 : Byte)).length = 32 ∧ (3 : Byte).toNat ≤ 32 ∧ s.env.regs = 0x01 :: 0x0D :: [] ∧
      awaitedState s .txDone 0x01 = true ∧ awaitedState s .rxArmed 0x0D = true :=
  ⟨rfl, rfl, by decide, rfl, rfl, rfl, by decide, rfl, by decide, by decide⟩

/-- Two retries. -/
theorem witness_UnacknowledgedPostMakesAllAttempts :
    let s := withEnv setup [false, false, false, true] [0x01, 0x0D, 0x01, 0x0D, 0x01, 0x0D, 0x77] []
    s.resetPin = false ∧ s.fault = false ∧ s.engState ≠ .idle ∧ s.todo = [] ∧ s.radioCompletes ∧ (9 : Byte) ≠ 0 ∧
      (List.replicate 32 (7 : Byte)).length = 32 ∧ (3 : Byte).toNat ≤ 32 ∧ awaitedState s .txDone 0x01 = true ∧
      awaitedState s .rxArmed 0x0D = true ∧ s.env.regs = (List.replicate (2 + 1) [0x01, 0x0D]).flatten ++ [0x77] ∧
      s.env.line = List.replicate (2 + 1) false ++ [true] ∧ s.cfg.wf = true :=
  ⟨rfl, rfl, by decide, rfl, rfl, by decide, rfl, by decide, by decide, by decide, rfl, rfl, by decide⟩

/-- The mark set; below the bound; above it. -/
theorem witness_PassEndsInSuccessRetryOrFailure :
    let s := { waiting with todo := [.endCycle .post false] }
    s.resetPin = false ∧ s.todo = [.endCycle .post false] ∧ ({ s with ackSeen := true } : State).ackSeen = true ∧
      s.ackSeen = false ∧ s.attempt + 1 ≤ s.latch.maxRetriesR ∧
      memRead s .tx 0 s.txLen = .ok (encodeMsg cfg 9 5 0xBEEF 2 1 [0x11]) ∧
      ({ s with attempt := 2 } : State).latch.maxRetriesR < ({ s with attempt := 2 } : State).attempt + 1 := by decide

/-- V21: the ACK of node 9 in the first pass, and in the last of three. -/
theorem witness_AcknowledgedPost :
    let s := fun j => withEnv setup (List.replicate j false ++ [true]) ((List.replicate (j + 1) [0x01, 0x0D]).flatten ++ [8])
      [0x05, 0x05, 0x09, 0xEF, 0xBE, 0x00, 0x2F, 0x80]
    (∀ j ≤ 2, (s j).resetPin = false ∧ (s j).fault = false ∧ (s j).engState ≠ .idle ∧ (s j).todo = [] ∧
      (s j).env.completions = none ∧ (s j).cfg.wf = true ∧ (9 : Byte) ≠ 0 ∧ (List.replicate 32 (7 : Byte)).length = 32 ∧
      (3 : Byte).toNat ≤ 32 ∧ awaitedState (s j) .txDone 0x01 = true ∧ awaitedState (s j) .rxArmed 0x0D = true ∧
      (s j).env.regs = (List.replicate (j + 1) [0x01, 0x0D]).flatten ++ 8 :: [] ∧
      (s j).env.line = List.replicate j false ++ true :: [] ∧ (s j).cfg.rxCountDecode 8 = (false, 8) ∧
      (s j).env.fifo =
        encode (s j).cfg (.frameAck (s j).deviceAddress 9 (s j).messageSignature) ++ 0x2F :: 0x80 :: []) := by decide

theorem witness_TransmitBufferIsStableWithinACommand :
    ControlOk waiting ∧ waiting.resetPin = false ∧ waiting.todo ≠ [] ∧ ∃ t, step waiting = .next t :=
  ⟨control_waiting, by decide, by decide, _, rfl⟩

theorem witness_WaitWindowOnlyWaits : waiting.resetPin = false ∧ waiting.todo = .wait :: [.pollCycle .post] := by decide

/-! ### Whole-machine rules -/

/-- The last byte of a page. -/
theorem witness_WritesDoNotAlias : ∃ t, memWrite queued (.page 19) 39 [7] = .ok t := ⟨_, rfl⟩

theorem witness_StepKeepsTheParameters : ∃ t, step waiting = .next t := ⟨_, rfl⟩

theorem witness_EngineFollowsItsTransitions : ControlOk waiting ∧ waiting.resetPin = false ∧ ∃ t, step waiting = .next t :=
  ⟨control_waiting, by decide, _, rfl⟩

theorem witness_OnlyPushAndPullChangeTheQueue : ControlOk waiting ∧ waiting.resetPin = false ∧
    (∃ t, step waiting = .next t) ∧ (∀ page sd rest, waiting.todo ≠ .enqueue page sd :: rest) ∧
    ∀ record others, waiting.cmdPort = record :: others → waiting.todo = [] →
      decode waiting.cfg .cmd record ≠ .ok .getMessage :=
  ⟨control_waiting, by decide, ⟨_, rfl⟩, fun _ _ _ h => (by simp [waiting] at h), fun _ _ _ h => absurd h (by decide)⟩

theorem witness_ReceiveBufferIsStableWhileSplit :
    let s := { setup with busy := true, rdBurst := [1], todo := [.storeBurst, .split, .endCycle .poll false] }
    ControlOk s ∧ s.resetPin = false ∧ ∃ t, step s = .next t ∧ t.rxBuf ≠ s.rxBuf := by
  refine ⟨⟨rfl, fun h => (by cases h), fun a h => ?_, by decide, ⟨rfl, by decide⟩, fun _ => .inr ⟨_, rfl, by decide, by decide⟩⟩,
    rfl, _, rfl, by decide⟩
  rcases List.mem_cons.mp h with rfl | h
  · trivial
  · rcases List.mem_cons.mp h with rfl | h
    · trivial
    · rcases List.mem_cons.mp h with rfl | h
      · trivial
      · cases h

theorem witness_StepKeepsMemoryCanonical : MemoryOk waiting ∧ ∃ t, step waiting = .next t := ⟨good_waiting.memory, _, rfl⟩

theorem witness_StepKeepsGood : Good waiting ∧ ∃ t, step waiting = .next t := ⟨good_waiting, _, rfl⟩

theorem witness_StatusOutputsShowTheState : QueueOk queued ∧ QueueOk setup ∧ queued.engState = .receiving ∧
    waiting.engState = .awaitingAck ∧ fresh.engState = .idle :=
  ⟨⟨_, ring_queued⟩, ⟨_, ring_setup⟩, by decide, rfl, rfl⟩

theorem witness_GoodStatesNeverFault : Good waiting := good_waiting

end Sys2Proof.Machine.Tests
end

section
/-! What every operation, command and step leaves unchanged: the implementation parameters (00_scope.md R7, R15).
A proof written `(h :)` is elaborated before it meets the goal, since both states there unfold to the same `cfg`. -/

namespace Sys2Proof.Machine

/-! ## Shared operations -/

@[simp] theorem linkPage_cfg (s : State) (p : Nat) : (linkPage s p).cfg = s.cfg :=
  (congrArg State.cfg (linkPage_frame s p) :)

@[simp] theorem unlinkPage_cfg (s : State) (p : Nat) : (unlinkPage s p).cfg = s.cfg :=
  (congrArg State.cfg (unlinkPage_frame s p) :)

@[simp] theorem sampleLine_cfg (s : State) : (sampleLine s).2.cfg = s.cfg := by
  obtain ⟨v, u, hu, eq⟩ := sampleLine_eq s
  rw [hu]
  exact (congrArg State.cfg eq :)

@[simp] theorem beginConfirm_cfg (s : State) (p : Awaited) : (beginConfirm s p).cfg = s.cfg := by
  simp only [beginConfirm, spinRead, State.plan_cfg]
  split <;> rfl

@[simp] theorem testState_cfg (s : State) (p : Awaited) : (testState s p).cfg = s.cfg := by
  simp only [testState]
  split
  · rfl
  · rcases spinAgain_cases s p with eq | ⟨-, eq⟩ <;> exact (congrArg State.cfg eq :)

@[simp] theorem rxCount_cfg (s : State) (c : Caller) : (rxCount s c).cfg = s.cfg := by
  simp only [rxCount]
  split
  · rfl
  · split <;> rfl

@[simp] theorem afterTransmit_cfg (s : State) : (afterTransmit s).cfg = s.cfg := by
  simp only [afterTransmit]
  split <;> rfl

theorem push_cfg {s t : State} {P : Bytes} {b : Bool} (h : push s P = .ok (b, t)) : t.cfg = s.cfg := by
  rcases push_cases h with ⟨-, rfl⟩ | ⟨p, u, -, -, -, hu, rfl⟩
  · rfl
  · rw [linkPage_cfg, (memWrite_eq_ok.mp hu).2, State.setMemory_cfg]

/-! ## The phases of a command -/

theorem startAttempt_cfg {s t : State} (h : startAttempt s = .next t) : t.cfg = s.cfg := by
  obtain ⟨B, -, rfl⟩ := startAttempt_cases h
  rfl

theorem ackTest_cfg {s t : State} (h : ackTest s = .next t) : t.cfg = s.cfg := by
  rcases ackTest_cases h with ⟨-, rfl⟩ | ⟨-, -, rfl⟩ | ⟨-, -, B, -, rfl⟩ <;> rfl

theorem endCycle_cfg {s t : State} {c : Caller} {ovf : Bool} (h : endCycle s c ovf = .next t) : t.cfg = s.cfg := by
  rcases endCycle_cases h with ⟨-, -, rfl⟩ | ⟨-, -, rfl⟩ | ⟨-, ht⟩
  · rfl
  · rfl
  · exact (ackTest_cfg ht :)

theorem pollCycle_cfg {s t : State} {c : Caller} (h : pollCycle s c = .next t) : t.cfg = s.cfg := by
  obtain ⟨u, v, hu, hnext⟩ := pollCycle_cases h
  have hcfg : u.cfg = s.cfg := by simpa [hu] using sampleLine_cfg s
  rcases hnext with ⟨-, rfl⟩ | ⟨-, ht⟩
  · exact hcfg
  · exact (endCycle_cfg ht).trans hcfg

theorem storeBurst_cfg {s t : State} (h : storeBurst s = .next t) : t.cfg = s.cfg := by
  obtain ⟨-, rfl⟩ := storeBurst_cases h
  rfl

theorem enqueue_cfg {s t : State} {page : Bytes} {sd : Byte} (h : enqueue s page sd = .next t) : t.cfg = s.cfg := by
  rcases enqueue_cases h with hp | ⟨-, rfl⟩
  · exact push_cfg hp
  · rfl

theorem processFrame_cfg {s t : State} {isMsg : Bool} {r sd : Byte} {tok : Half} {page : Bytes}
    (h : processFrame s isMsg r sd tok page = .next t) : t.cfg = s.cfg := by
  obtain ⟨u, hu, hcases⟩ := processFrame_eq s isMsg r sd tok page
  obtain rfl : u = t := by simpa [hu] using h
  rcases hcases with ⟨-, rfl⟩ | ⟨-, -, -, rfl⟩ | ⟨-, -, pushes, -, rfl | ⟨-, rfl⟩⟩ <;> rfl

/-! ## The instructions -/

theorem execInit_cfg {a p : Byte} {g : Half} {s t : State} (h : exec (.init a p g) s = .next t) : t.cfg = s.cfg := by
  rcases execInit_cases a p g s with ⟨code, eq⟩ | ⟨e, code, eq⟩ | ⟨-, -, -, -, -, eq⟩ <;> cases eq.symm.trans h <;> rfl

theorem execPoll_cfg {s t : State} (h : exec .poll s = .next t) : t.cfg = s.cfg := by
  rcases execPoll_cases s with ⟨code, eq⟩ | ⟨-, -, eq⟩
  · cases eq.symm.trans h
    rfl
  · exact (pollCycle_cfg (eq.symm.trans h) :)

theorem execGetMessage_cfg {s t : State} (h : exec .getMessage s = .next t) : t.cfg = s.cfg := by
  rcases execGetMessage_cases h with ⟨code, rfl⟩ | ⟨-, -, P, -, rfl⟩
  · rfl
  · rw [respond_cfg, unlinkPage_cfg]
    rfl

theorem execPostMessage_cfg {r m n : Byte} {d : Bytes} {k : Nat} {s t : State}
    (h : exec (.postMessage r m n d k) s = .next t) : t.cfg = s.cfg := by
  rcases execPostMessage_cases r m n d k s with ⟨code, eq⟩ | ⟨-, eq⟩ | ⟨-, -, -, ⟨f, eq⟩ | ⟨u, hu, eq⟩⟩
  · cases eq.symm.trans h
    rfl
  · cases eq.symm.trans h
    rfl
  · cases eq.symm.trans h
  · obtain ⟨data, -, rfl⟩ := buildFrame_cases hu
    exact (startAttempt_cfg (eq.symm.trans h) :)

@[simp] theorem beginDiagnostic_cfg (s : State) (op : BitVec 3) (id : Byte) : (beginDiagnostic s op id).cfg = s.cfg := by
  rcases beginDiagnostic_cases s op id with ⟨code, eq⟩ | ⟨-, eq⟩ <;> exact (congrArg State.cfg eq :)

theorem exec_radio_cfg {i : Instr} {s t : State} (hi : i.format = .radio) (h : exec i s = .next t) : t.cfg = s.cfg := by
  obtain ⟨u, e, hu, eq⟩ := exec_radio (s := s) hi
  cases hu.symm.trans h
  exact (congrArg State.cfg eq :)

/-- No instruction changes the parameters. -/
theorem exec_cfg {i : Instr} {s t : State} (h : exec i s = .next t) : t.cfg = s.cfg := by
  cases i with
  | frameAck r sd tok => exact processFrame_cfg h
  | frameMsg r sd tok m d => exact processFrame_cfg h
  | init a p g => exact execInit_cfg h
  | poll => exact execPoll_cfg h
  | getMessage => exact execGetMessage_cfg h
  | postMessage r m n d k => exact execPostMessage_cfg h
  | getVersion => cases h; exact beginDiagnostic_cfg ..
  | getPartNumber => cases h; exact beginDiagnostic_cfg ..
  | readReg | writeReg | readBurst | writeBurst | strobe => exact exec_radio_cfg rfl h

/-! ## The step -/

theorem splitStep_cfg {s t : State} (h : splitStep s = .next t) : t.cfg = s.cfg := by
  simp only [splitStep] at h
  split at h
  · cases h; rfl
  · split at h
    · cases h
    · cases h; rfl
    · exact (exec_cfg h :)

theorem perform_cfg {a : Act} {s t : State} (h : perform a s = .next t) : t.cfg = s.cfg := by
  cases a with
  | issue i => exact exec_cfg (s := countCompletion s) h
  | confirm p => cases h; exact beginConfirm_cfg s p
  | test p => cases h; exact testState_cfg s p
  | pollCycle c => exact pollCycle_cfg h
  | rxCount c => cases h; exact rxCount_cfg s c
  | storeBurst => exact storeBurst_cfg h
  | split => exact splitStep_cfg h
  | enqueue page sd => exact enqueue_cfg h
  | endCycle c ovf => exact endCycle_cfg h
  | afterTransmit => cases h; exact afterTransmit_cfg s
  | configure | respondValue | advance | receiving | initDone | wait => cases h; rfl

theorem goOn_cfg {a : Act} {rest : List Act} {s t : State} (h : goOn a rest s = .next t) : t.cfg = s.cfg := by
  simp only [goOn] at h
  split at h
  · cases h; rfl
  · exact (perform_cfg h :)

theorem acceptRecord_cfg {record : Bytes} {others : List Bytes} {s t : State}
    (h : acceptRecord record others s = .next t) : t.cfg = s.cfg := by
  simp only [acceptRecord] at h
  split at h
  · exact (exec_cfg h :)
  · cases h; rfl
  · cases h

theorem idleStep_cfg {s t : State} (h : idleStep s = .next t) : t.cfg = s.cfg := by
  simp only [idleStep] at h
  split at h
  · cases h; rfl
  · split at h
    · cases h; rfl
    · exact acceptRecord_cfg h

/-- Settles O52: reset keeps the parameters (R15), and so does every action and every acceptance between resets. -/
theorem stepKeepsTheParameters : Obligations.StepKeepsTheParameters := by
  intro s t h
  simp only [step] at h
  split at h
  · cases h; rfl
  · split at h
    · exact goOn_cfg h
    · exact idleStep_cfg h

end Sys2Proof.Machine
end

section
/-! What one step can do: for an instruction, for an action still to do, and for the step itself, a relation with one
constructor for each kind of outcome, and the lemma that every outcome is one of them. The invariants are proved from these
relations, so that the functions of the model are taken apart here only; values no invariant speaks of are left open. -/

namespace Sys2Proof.Machine

/-- What an event adds to the commands accepted and not yet answered (R45). -/
def Event.tally : Event → Int
  | .accepted _ => 1
  | .response _ => -1
  | _ => 0

/-! ## The outcomes -/

/-- How a poll cycle ends (R211 step 7, R212, R187): POLL answers; POST_MESSAGE answers, or starts its next attempt. -/
inductive Ends (s : State) : Caller → State → Prop where
  | polled (r : Rsp) : Ends s .poll (respond (s.enter .receiving) r)
  | posted (n : Nat) (g : List Event) (r : Rsp) (hg : ∀ e ∈ g, e.tally = 0) :
      Ends s .post (respond
        { s with engState := .receiving, attempt := n, ackSeen := false, awaitValid := false, hist := s.hist ++ g } r)
  | retry (B : Bytes) (hB : memRead s .tx 0 s.txLen = .ok B) :
      Ends s .post { s with
        engState := .transmitting, attempt := s.attempt + 1, todo := transmitActs s.cfg B ++ [.afterTransmit] }

/-- A poll cycle takes one sample of the line, and waits for the count or is at its end (R211 step 1). -/
inductive Cycles (s : State) (c : Caller) : State → Prop where
  | high (env : Env) (tick : Nat) (v : Bool) :
      Cycles s c { s with
        env := env, tick := tick, hist := s.hist ++ [.lineSample v]
        todo := .issue (.readReg s.cfg.radio.regRxbytes) :: .rxCount c :: s.todo }
  | low (env : Env) (tick : Nat) (v : Bool) {t : State}
      (h : Ends { s with env := env, tick := tick, hist := s.hist ++ [.lineSample v] } c t) : Cycles s c t

/-- The actions a received frame adds are pushes, of pages that fit the queue if the frame is well-formed (R213 step 6). -/
def Pushes (c : Config) (i : Instr) (pushes : List Act) : Prop :=
  ∀ a ∈ pushes, (∃ page sender, a = .enqueue page sender) ∧ (i.wf c = true → a.ok c)

/-- What an instruction does. -/
inductive Runs (s : State) : Instr → State → Prop where
  | radio {i : Instr} (hi : i.format = .radio) (b : Byte) (B : Bytes) (env : Env) (tick : Nat) (e : Event)
      (he : e.tally = 0) (hB : ∀ cmd n, i = .readBurst cmd n → B.length = n) :
      Runs s i { s with rdData := b, rdBurst := B, env := env, tick := tick, hist := s.hist ++ [e] }
  | discard {i : Instr} (hi : i.format = .frame) (tok : Half) : Runs s i (s.log (.raised (.tokenMismatch tok)))
  | mark {i : Instr} (hi : i.format = .frame) (hv : s.awaitValid = true) : Runs s i { s with ackSeen := true }
  | quiet {i : Instr} (hi : i.format = .frame) (pushes : List Act) (hp : Pushes s.cfg i pushes) :
      Runs s i { s with todo := pushes ++ s.todo }
  | reply {i : Instr} (hi : i.format = .frame) (dest : Byte) (pushes : List Act) (hp : Pushes s.cfg i pushes) :
      Runs s i { s with
        ackBuf := Memory.store s.ackBuf 0 (ackFrame s dest), engState := .transmitting
        todo := transmitActs s.cfg (ackFrame s dest) ++ (.receiving :: pushes) ++ s.todo }
  | refuse {i : Instr} (hi : i.format = .cmd) (l : Latches) (bs : Bytes) (hbs : bs.length ≤ dataMax) (g : List Event)
      (hg : ∀ e ∈ g, e.tally = 0) (r : Rsp) :
      Runs s i (respond { accept s l (Memory.store [] 0 bs) with hist := s.hist ++ [.accepted l.opCode] ++ g } r)
  | init (a p : Byte) (g : Half) (l : Latches) (hf : s.fault = false) (he : s.engState = .idle) (h1 : addrMin ≤ a)
      (h2 : a ≤ addrMax) (hp : s.cfg.powerValid p = true) :
      Runs s (.init a p g) { accept s l [] with
        deviceAddress := a, outputPower := p, messageSignature := g
        todo := .configure p :: armReceive s.cfg ++ [.initDone] }
  | diagnose {i : Instr} (hi : i.format = .cmd) (l : Latches) (id : Byte) (hf : s.fault = false) :
      Runs s i { accept s l [] with todo := [.issue (.readReg id), .respondValue] }
  | poll (l : Latches) (hf : s.fault = false) (he : s.engState ≠ .idle) {t : State}
      (h : Cycles (accept s l []) .poll t) : Runs s .poll t
  | getMessage (l : Latches) (hf : s.fault = false) (hc : s.count ≠ 0) (r : Rsp) :
      Runs s .getMessage (respond (unlinkPage (accept s l []) (s.head.getD nullPage)) r)
  | post (r m n : Byte) (d : Bytes) (k : Nat) (l : Latches) (bs F : Bytes) (hbs : bs.length ≤ dataMax)
      (hf : s.fault = false) (he : s.engState ≠ .idle) (hn : l.opDataLen.toNat ≤ 32) (hF : F.length = 8 + l.opDataLen.toNat) :
      Runs s (.postMessage r m n d k) { accept s l (Memory.store [] 0 bs) with
        txBuf := Memory.store s.txBuf 0 F, txLen := 8 + l.opDataLen.toNat, ackSeen := false, attempt := 0
        awaitAddr := l.opRecipient, awaitValid := decide (l.opRecipient ≠ broadcastAddr), engState := .transmitting
        todo := transmitActs s.cfg F ++ [.afterTransmit] }

/-- What an action does; `s` has the actions after it still to do. -/
inductive Performs (s : State) : Act → State → Prop where
  | issue {i : Instr} {t : State} (h : Runs (countCompletion s) i t) : Performs s (.issue i) t
  | configure (p : Byte) : Performs s (.configure p) ((countCompletion s).log (.configure p))
  | spin {a : Act} (p : Awaited) (ha : a = .confirm p ∨ a = .test p) (n : Nat)
      (hn : s.cfg.spinLimit = none → n = s.spinCount) :
      Performs s a { s with
        spinCount := n, todo := .issue (.readReg s.cfg.radio.regMarcstate) :: .test p :: s.todo }
  | seen (p : Awaited) : Performs s (.test p) s
  | timeout (p : Awaited) (n : Nat) (hn : s.cfg.spinLimit ≠ none) :
      Performs s (.test p) (abortTimeout { s with spinCount := n } p)
  | respondValue : Performs s .respondValue (respondValue s)
  | pollCycle {c : Caller} {t : State} (h : Cycles s c t) : Performs s (.pollCycle c) t
  | overflow (c : Caller) (ovf : Bool) (n : Nat) :
      Performs s (.rxCount c) ((s.log (.raised (.rxOverflow ovf n))).plan (flushRearm s.cfg ++ [.endCycle c true]))
  | noBytes (c : Caller) :
      Performs s (.rxCount c) { s with rxLen := 0, rxOff := 0, rxRem := 0, todo := .endCycle c false :: s.todo }
  | bytes (c : Caller) (n : Nat) (h0 : n ≠ 0) (hn : n ≤ s.cfg.fifoCap) (h8 : n < 256) :
      Performs s (.rxCount c)
        (s.plan [.issue (.readBurst s.cfg.radio.cmdRxfifo n), .storeBurst, .split, .endCycle c false])
  | storeBurst (hn : s.rdBurst.length ≤ s.cfg.fifoCap) :
      Performs s .storeBurst { s with
        rxBuf := Memory.store s.rxBuf 0 s.rdBurst, rxLen := s.rdBurst.length, rxOff := 0, rxRem := s.rdBurst.length }
  | splitEnd : Performs s .split s
  | malformed (w : Malformed) (n : Nat) :
      Performs s .split ((s.log (.raised (.malformedFrame w s.rxOff))).plan [.advance n, .split])
  | frame {i : Instr} (n : Nat) {t : State} (hi : i.format = .frame) (hw : i.wf s.cfg = true)
      (h : Runs (s.plan [.advance n, .split]) i t) : Performs s .split t
  | advance (n : Nat) : Performs s (.advance n) (advanceCursor s n)
  | enqueue {page : Bytes} {sd : Byte} {t : State} (h : push s page = .ok (true, t)) : Performs s (.enqueue page sd) t
  | drop (page : Bytes) (sd : Byte) : Performs s (.enqueue page sd) (s.log (.raised (.queueFull sd)))
  | receiving : Performs s .receiving (s.enter .receiving)
  | endCycle {c : Caller} {ovf : Bool} {t : State} (h : Ends s c t) : Performs s (.endCycle c ovf) t
  | initDone (r : Rsp) : Performs s .initDone (respond (s.enter .receiving) r)
  | broadcast (hr : s.latch.opRecipient = broadcastAddr) (r : Rsp) :
      Performs s .afterTransmit (respond (s.enter .receiving) r)
  | unicast : Performs s .afterTransmit ((s.enter .awaitingAck).plan [.wait, .pollCycle .post])
  | wait : Performs s .wait (waitWindow s)

/-- What a step does (R300, R190, R45). -/
inductive Steps (s : State) : State → Prop where
  | reset (hr : s.resetPin = true) : Steps s (assertReset s)
  | stay : Steps s s
  | action {a : Act} {rest : List Act} {t : State} (ht : s.todo = a :: rest) (h : Performs { s with todo := rest } a t) :
      Steps s t
  | command {record : Bytes} {others : List Bytes} {i : Instr} {t : State} (ht : s.todo = []) (hb : s.busy = false)
      (hp : s.cmdPort = record :: others) (hd : decodeCmd s.cfg record = .ok i) (h : Runs { s with cmdPort := others } i t) :
      Steps s t
  | reserved {record : Bytes} {others : List Bytes} (op : BitVec 3) (ht : s.todo = []) (hb : s.busy = false)
      (hp : s.cmdPort = record :: others) : Steps s (refuseReserved { s with cmdPort := others } op)

/-! ## Every outcome is one of these -/

theorem Ends.of_endCycle {s t : State} {c : Caller} {ovf : Bool} (h : endCycle s c ovf = .next t) : Ends s c t := by
  rcases endCycle_cases h with ⟨rfl, -, rfl⟩ | ⟨rfl, -, rfl⟩ | ⟨rfl, h⟩
  · exact .polled _
  · exact .polled _
  · rcases ackTest_cases h with ⟨-, rfl⟩ | ⟨hs, -, rfl⟩ | ⟨-, -, B, hB, rfl⟩
    · simpa using Ends.posted (s := s) s.attempt [] _ (by simp)
    · have hs : s.ackSeen = false := hs
      simpa [State.log, hs, State.enter] using
        Ends.posted (s := s) (s.attempt + 1) [.raised (.deliveryFailure s.latch.opRecipient (s.attempt + 1))] _
          (by simp [Event.tally])
    · exact .retry B ((memRead_congr (s := s.enter .receiving) (t := s) rfl rfl).trans hB)

theorem Cycles.of_pollCycle {s t : State} {c : Caller} (h : pollCycle s c = .next t) : Cycles s c t := by
  obtain ⟨u, v, hu, hnext⟩ := pollCycle_cases h
  obtain ⟨v', u', hu', eq⟩ := sampleLine_eq s
  obtain ⟨rfl, rfl⟩ : v = v' ∧ u = u' := by simpa using hu.symm.trans hu'
  rw [eq] at hnext
  rcases hnext with ⟨-, rfl⟩ | ⟨-, h⟩
  · exact .high ..
  · exact .low _ _ _ (Ends.of_endCycle h)

theorem pageImage_length (c : Config) (r sd : Byte) (tok : Half) (m : Byte) {d : Bytes} (hd : d.length ≤ dataMax) :
    (pageImage c r sd tok m d).length = pageBytes := by
  have hn := toNat_ofNat_length hd
  have hF : (encodeMsg c r sd tok m (BitVec.ofNat 8 d.length) d).length = 8 + d.length := by
    rw [encodeMsg_length _ _ _ _ _ _ _ (by omega), hn]
  simp only [pageImage, List.length_append, List.length_replicate, hF, pageBytes]
  simp only [dataMax] at hd
  omega

/-- Byte 7 of a page image is the number of data bytes (R92, R240). -/
theorem pageImage_dataLen (c : Config) (r sd : Byte) (tok : Half) (m : Byte) (d : Bytes) :
    (pageImage c r sd tok m d).getD 7 0 = BitVec.ofNat 8 d.length := rfl

theorem Pushes.nil (c : Config) (i : Instr) : Pushes c i [] := fun _ h => absurd h (List.not_mem_nil)

theorem Pushes.frameMsg (c : Config) (r sd : Byte) (tok : Half) (m : Byte) (d : Bytes) :
    Pushes c (.frameMsg r sd tok m d) [.enqueue (pageImage c r sd tok m d) sd] := by
  intro a ha
  obtain rfl := List.mem_singleton.mp ha
  refine ⟨⟨_, _, rfl⟩, fun hw => ?_⟩
  have hd : d.length ≤ dataMax := of_decide_eq_true hw
  refine ⟨pageImage_length c r sd tok m hd, ?_⟩
  rw [pageImage_dataLen, toNat_ofNat_length hd]
  exact hd

/-- ProcessFrame of either frame kind, whose page goes to the queue only if it is a MSG. -/
theorem Runs.of_processFrame {s t : State} {i : Instr} {isMsg : Bool} {r sd : Byte} {tok : Half} {page : Bytes}
    (hi : i.format = .frame) (hp : Pushes s.cfg i (if isMsg then [.enqueue page sd] else []))
    (h : processFrame s isMsg r sd tok page = .next t) : Runs s i t := by
  obtain ⟨u, hu, hcases⟩ := processFrame_eq s isMsg r sd tok page
  obtain rfl : u = t := by simpa [hu] using h
  rcases hcases with ⟨-, rfl⟩ | ⟨-, -, hm, rfl⟩ | ⟨-, -, pushes, rfl, rfl | ⟨-, rfl⟩⟩
  · exact .discard hi tok
  · refine .mark hi ?_
    simp only [matchedAck, Bool.and_eq_true] at hm
    exact hm.1.2
  · exact .quiet hi _ hp
  · exact .reply hi sd _ hp

theorem Runs.of_refuse {s : State} {i : Instr} (hi : i.format = .cmd) (l : Latches) {bs : Bytes}
    (hbs : bs.length ≤ dataMax) (code : RspCode) : Runs s i (Machine.refuse (accept s l (Memory.store [] 0 bs)) code) := by
  have h := Runs.refuse (s := s) hi l bs hbs [] (by simp) ⟨false, code, .nothing⟩
  rw [List.append_nil] at h
  exact h

theorem Runs.of_fail {s : State} {i : Instr} (hi : i.format = .cmd) (l : Latches) {bs : Bytes} (hbs : bs.length ≤ dataMax)
    (e : Raised) (code : RspCode) : Runs s i (Machine.fail (accept s l (Memory.store [] 0 bs)) e code) :=
  Runs.refuse hi l bs hbs [.raised e] (by simp [Event.tally]) _

theorem Runs.of_radio {s t : State} {i : Instr} (hi : i.format = .radio) (h : exec i s = .next t) : Runs s i t := by
  cases i <;> simp [Instr.format] at hi
  case readReg id =>
    obtain ⟨b, u, hu, eq⟩ := answerReg_eq s
    simp only [exec, execReadReg, hu] at h
    cases h
    rw [eq]
    exact .radio rfl b s.rdBurst u.env u.tick (.readReg id b) rfl (by simp)
  case readBurst cmd n =>
    cases h
    refine .radio rfl s.rdData _ _ _ _ rfl ?_
    rintro _ _ ⟨⟩
    exact burstBytes_length ..
  all_goals
    cases h
    exact .radio rfl s.rdData s.rdBurst s.env s.tick _ rfl (by simp)

theorem Runs.of_init {s t : State} {a p : Byte} {g : Half} (h : exec (.init a p g) s = .next t) :
    Runs s (.init a p g) t := by
  rcases execInit_cases a p g s with ⟨code, eq⟩ | ⟨e, code, eq⟩ | ⟨hf, he, h1, h2, hp, eq⟩ <;> cases eq.symm.trans h
  · exact Runs.of_refuse rfl _ (bs := []) (by simp) code
  · exact Runs.of_fail rfl _ (bs := []) (by simp) e code
  · exact .init a p g _ hf he h1 h2 hp

theorem Runs.of_poll {s t : State} (h : exec .poll s = .next t) : Runs s .poll t := by
  rcases execPoll_cases s with ⟨code, eq⟩ | ⟨hf, he, eq⟩
  · cases eq.symm.trans h
    exact Runs.of_refuse rfl _ (bs := []) (by simp) code
  · exact .poll _ hf he (Cycles.of_pollCycle (eq.symm.trans h))

theorem Runs.of_getMessage {s t : State} (h : exec .getMessage s = .next t) : Runs s .getMessage t := by
  rcases execGetMessage_cases h with ⟨code, rfl⟩ | ⟨hf, hc, P, -, rfl⟩
  · exact Runs.of_refuse rfl _ (bs := []) (by simp) code
  · exact .getMessage _ hf hc _

/-- The frame of POST_MESSAGE has its header, its two fixed bytes and the data (R92, R184). -/
theorem postFrame_length {s : State} {data : Bytes} (h : data.length = s.latch.opDataLen.toNat) :
    (postFrame s data).length = 8 + s.latch.opDataLen.toNat := encodeMsg_length _ _ _ _ _ _ _ h.ge

/-- The frame that is built is what the first attempt reads from `txBuf` (R184, R185). -/
theorem buildFrame_reads_back {s u : State} (hn : s.latch.opDataLen.toNat ≤ 32) (h : buildFrame s = .ok u) :
    ∃ F, F.length = 8 + s.latch.opDataLen.toNat ∧ memRead u .tx 0 u.txLen = .ok F ∧ u = { s with
      txBuf := Memory.store s.txBuf 0 F, txLen := 8 + s.latch.opDataLen.toNat, ackSeen := false, attempt := 0
      awaitAddr := s.latch.opRecipient, awaitValid := decide (s.latch.opRecipient ≠ broadcastAddr) } := by
  obtain ⟨data, hdata, rfl⟩ := buildFrame_cases h
  have hF := postFrame_length (memRead_length hdata)
  have hw := memWrite_ok (s := s) (sp := .tx) (a := 0) (bs := postFrame s data)
    (by rw [hF]; simp only [Space.size, frameMaxBytes]; omega)
  have hread := memRead_memWrite_same hw
  rw [hF] at hread
  refine ⟨_, hF, ?_, rfl⟩
  rw [← hread]
  exact memRead_congr rfl rfl

theorem Runs.of_postMessage {s t : State} {r m n : Byte} {d : Bytes} {k : Nat}
    (h : exec (.postMessage r m n d k) s = .next t) : Runs s (.postMessage r m n d k) t := by
  have hd : (d.take dataMax).length ≤ dataMax := List.length_take_le ..
  rcases execPostMessage_cases r m n d k s with ⟨code, eq⟩ | ⟨-, eq⟩ | ⟨hf, he, hn, ⟨f, eq⟩ | ⟨u, hu, eq⟩⟩
  · cases eq.symm.trans h
    exact Runs.of_refuse rfl _ hd code
  · cases eq.symm.trans h
    exact Runs.of_fail rfl _ hd _ _
  · cases eq.symm.trans h
  · obtain ⟨F, hF, hread, rfl⟩ := buildFrame_reads_back hn hu
    obtain ⟨B, hB, rfl⟩ := startAttempt_cases (eq.symm.trans h)
    obtain rfl : F = B := Except.ok.inj (hread.symm.trans hB)
    exact .post r m n d k _ _ _ hd hf he hn hF

theorem Runs.of_diagnostic {s : State} {i : Instr} (hi : i.format = .cmd) (op : BitVec 3) (id : Byte) :
    Runs s i (beginDiagnostic s op id) := by
  rcases beginDiagnostic_cases s op id with ⟨code, eq⟩ | ⟨hf, eq⟩ <;> rw [eq]
  · exact Runs.of_refuse hi _ (bs := []) (by simp) code
  · exact .diagnose hi _ id hf

theorem Runs.of_exec {i : Instr} {s t : State} (h : exec i s = .next t) : Runs s i t := by
  cases i with
  | frameAck r sd tok => exact .of_processFrame rfl (Pushes.nil _ _) h
  | frameMsg r sd tok m d => exact .of_processFrame rfl (Pushes.frameMsg _ r sd tok m d) h
  | init a p g => exact .of_init h
  | poll => exact .of_poll h
  | getMessage => exact .of_getMessage h
  | postMessage r m n d k => exact .of_postMessage h
  | getVersion => cases h; exact .of_diagnostic rfl ..
  | getPartNumber => cases h; exact .of_diagnostic rfl ..
  | readReg | writeReg | readBurst | writeBurst | strobe => exact .of_radio rfl h

/-- A reserved code is answered as any refused command is (R273). -/
theorem Runs.of_reserved (s : State) (op : BitVec 3) {i : Instr} (hi : i.format = .cmd) : Runs s i (refuseReserved s op) :=
  Runs.of_refuse hi _ (bs := []) (Nat.zero_le _) _

theorem Performs.of_test (s : State) (p : Awaited) : Performs s (.test p) (testState s p) := by
  simp only [testState]
  split
  · exact .seen p
  · rcases spinAgain_cases s p with eq | ⟨hl, eq⟩
    · rw [eq]
      refine .spin p (.inr rfl) _ fun hl => ?_
      simp only [spinAgain, hl, spinRead, State.plan_spinCount]
    · rw [eq]
      exact .timeout p _ (by simp [hl])

theorem Performs.of_confirm (s : State) (p : Awaited) : Performs s (.confirm p) (beginConfirm s p) := by
  cases hl : s.cfg.spinLimit with
  | none =>
    have eq : beginConfirm s p = spinRead s p := by simp [beginConfirm, hl]
    rw [eq]
    exact .spin p (.inl rfl) s.spinCount fun _ => rfl
  | some n =>
    have eq : beginConfirm s p = spinRead { s with spinCount := 0 } p := by simp [beginConfirm, hl]
    rw [eq]
    exact .spin p (.inl rfl) 0 fun h => by simp [hl] at h

theorem Performs.of_rxCount (s : State) (c : Caller) : Performs s (.rxCount c) (rxCount s c) := by
  simp only [rxCount]
  split
  · exact .overflow ..
  · rename_i hov
    split
    · exact .noBytes c
    · rename_i h0
      have hn : (s.cfg.rxCountDecode s.rdData).2 ≤ s.cfg.fifoCap := by
        by_contra hlt
        exact hov (by simp [countOverflows, Nat.lt_of_not_ge hlt])
      exact .bytes c _ h0 hn (BitVec.isLt _)

theorem Performs.of_split {s t : State} (h : splitStep s = .next t) : Performs s .split t := by
  simp only [splitStep] at h
  split at h
  · cases h; exact .splitEnd
  · split at h
    · cases h
    · cases h; exact .malformed _ _
    · rename_i i n hd
      obtain ⟨hi, hw, -⟩ := decodeOne_frame hd
      exact .frame n hi hw (Runs.of_exec h)

theorem Performs.of_perform {a : Act} {s t : State} (h : perform a s = .next t) : Performs s a t := by
  cases a with
  | issue i => exact .issue (Runs.of_exec h)
  | configure p => cases h; exact .configure p
  | confirm p => cases h; exact .of_confirm s p
  | test p => cases h; exact .of_test s p
  | respondValue => cases h; exact .respondValue
  | pollCycle c => exact .pollCycle (Cycles.of_pollCycle h)
  | rxCount c => cases h; exact .of_rxCount s c
  | storeBurst =>
    obtain ⟨hn, rfl⟩ := storeBurst_cases h
    exact .storeBurst hn
  | split => exact .of_split h
  | advance n => cases h; exact .advance n
  | enqueue page sd =>
    rcases enqueue_cases h with hp | ⟨-, rfl⟩
    · exact .enqueue hp
    · exact .drop page sd
  | receiving => cases h; exact .receiving
  | endCycle c ovf => exact .endCycle (Ends.of_endCycle h)
  | initDone => cases h; exact .initDone _
  | afterTransmit =>
    cases h
    simp only [afterTransmit]
    split
    · exact .broadcast ‹_› _
    · exact .unicast
  | wait => cases h; exact .wait

theorem Steps.of_step {s t : State} (h : step s = .next t) : Steps s t := by
  simp only [step] at h
  split at h
  · cases h; exact .reset ‹_›
  · split at h
    · rename_i a rest ht
      simp only [goOn] at h
      split at h
      · cases h; exact .stay
      · exact .action ht (.of_perform h)
    · rename_i ht
      simp only [idleStep] at h
      split at h
      · cases h; exact .stay
      · rename_i hb
        have hb : s.busy = false := by simpa using hb
        split at h
        · cases h; exact .stay
        · rename_i record others hp
          simp only [acceptRecord] at h
          split at h
          · exact .command ht hb hp ‹_› (.of_exec h)
          · cases h; exact .reserved _ ht hb hp
          · cases h

end Sys2Proof.Machine
end

section
/-! Push and Pull keep the ring of occupied pages (R44, R241, R242), and what the free pages are (R246). -/

namespace Sys2Proof.Machine

/-! ## Free pages -/

theorem freePage_eq_some {s : State} {p : Nat} (h : freePage s = some p) :
    p < s.occupied.length ∧ s.occupied.getD p false = false := by
  obtain ⟨hp, hocc, -⟩ := List.findIdx?_eq_some_iff_getElem.mp h
  rw [List.getD_eq_getElem _ _ hp]
  exact ⟨hp, by simpa using hocc⟩

theorem Ring.freePage_not_mem {s : State} {ring : List Nat} (h : Ring s ring) {p : Nat} (hp : freePage s = some p) :
    p < queuePages ∧ p ∉ ring := by
  obtain ⟨hlt, hocc⟩ := freePage_eq_some hp
  have hlt : p < queuePages := h.flags ▸ hlt
  refine ⟨hlt, fun hmem => ?_⟩
  rw [(h.occupied p hlt).mpr hmem] at hocc
  cases hocc

/-- No page is free exactly when every page is in the ring. -/
theorem Ring.freePage_eq_none {s : State} {ring : List Nat} (h : Ring s ring) :
    freePage s = none ↔ ∀ p < queuePages, p ∈ ring := by
  simp only [freePage, List.findIdx?_eq_none_iff]
  constructor
  · intro hall p hp
    have hlt : p < s.occupied.length := h.flags ▸ hp
    refine (h.occupied p hp).mp ?_
    rw [List.getD_eq_getElem _ _ hlt]
    simpa using hall _ (List.getElem_mem hlt)
  · intro hall b hb
    obtain ⟨p, hlt, rfl⟩ := List.getElem_of_mem hb
    have hp : p < queuePages := h.flags ▸ hlt
    have := (h.occupied p hp).mpr (hall p hp)
    rw [List.getD_eq_getElem _ _ hlt] at this
    simp [this]

theorem Ring.length_eq_iff {s : State} {ring : List Nat} (h : Ring s ring) :
    ring.length = queuePages ↔ ∀ p < queuePages, p ∈ ring := by
  have hsub : ring ⊆ List.range queuePages := fun p hp => List.mem_range.mpr (h.below p hp)
  constructor
  · intro hlen p hp
    have hperm := (List.subperm_of_subset h.nodup hsub).perm_of_length_le (by simp [hlen])
    exact hperm.mem_iff.mpr (List.mem_range.mpr hp)
  · intro hall
    have hle := (List.subperm_of_subset List.nodup_range fun p hp => hall p (List.mem_range.mp hp)).length_le
    exact Nat.le_antisymm h.length_le (by simpa using hle)

/-! ## The links -/

theorem getD_set {α : Type} (l : List α) (i j : Nat) (a d : α) :
    (l.set i a).getD j d = if i = j ∧ j < l.length then a else l.getD j d := by
  simp only [List.getD_eq_getElem?_getD, List.getElem?_set]
  by_cases hij : i = j
  · subst hij
    by_cases hlt : i < l.length <;> simp [hlt]
  · simp [hij]

/-- Each page of the ring links to the next one, and the last to the first (R44(c)). -/
def Linked (links ring : List Nat) : Prop :=
  ∀ k, (h : k < ring.length) → links.getD ring[k] nullPage = ring[(k + 1) % ring.length]'(Nat.mod_lt _ (by omega))

theorem Linked.next_of_lt {links ring : List Nat} (h : Linked links ring) {k : Nat} (hk : k + 1 < ring.length) :
    links.getD ring[k] nullPage = ring[k + 1] := by
  rw [h k (by omega)]
  simp only [Nat.mod_eq_of_lt hk]

/-- The last page of a ring is the one whose place is the last. -/
theorem getLast_eq_getElem_iff {ring : List Nat} (hn : ring.Nodup) (hne : ring ≠ []) {k : Nat} (hk : k < ring.length) :
    ring.getLast hne = ring[k] ↔ k + 1 = ring.length := by
  rw [List.getLast_eq_getElem, hn.getElem_inj_iff]
  omega

/-- A page put between the last and the first (R241). -/
theorem Linked.append {links ring : List Nat} {p : Nat} (h : Linked links ring) (hn : ring.Nodup) (hne : ring ≠ [])
    (hlt : ∀ q ∈ ring, q < links.length) (hp : p < links.length) (hnew : p ∉ ring) :
    Linked ((links.set p (ring.head hne)).set (ring.getLast hne) p) (ring ++ [p]) := by
  intro k hk
  simp only [List.length_append, List.length_singleton] at hk ⊢
  rw [getD_set, getD_set, List.length_set]
  rcases Nat.lt_or_ge k ring.length with hk | hge
  · have hmem : ring[k] ∈ ring := List.getElem_mem hk
    have hne' : ¬ p = ring[k] := fun e => hnew (e ▸ hmem)
    simp only [List.getElem_append_left hk, Nat.mod_eq_of_lt (show k + 1 < ring.length + 1 by omega),
      getLast_eq_getElem_iff hn hne hk, hlt _ hmem, hne', if_false, and_true]
    by_cases hend : k + 1 = ring.length
    · simp [hend]
    · rw [if_neg hend, h.next_of_lt (by omega), List.getElem_append_left (by omega)]
  · obtain rfl : k = ring.length := by omega
    have hne' : ¬ ring.getLast hne = p := fun e => hnew (e ▸ List.getLast_mem hne)
    simp only [List.getElem_concat_length, Nat.mod_self, hne', false_and, if_false, hp, and_self, if_true,
      List.getElem_append_left (List.length_pos_of_ne_nil hne), List.head_eq_getElem hne]

/-- The first page taken out: the last one links to the second (R242). -/
theorem Linked.tail {links ring : List Nat} {p : Nat} (h : Linked links (p :: ring)) (hn : ring.Nodup) (hne : ring ≠ [])
    (hlt : ∀ q ∈ ring, q < links.length) : Linked (links.set (ring.getLast hne) (ring.head hne)) ring := by
  intro k hk
  have hmem : ring[k] ∈ ring := List.getElem_mem hk
  rw [getD_set]
  simp only [getLast_eq_getElem_iff hn hne hk, hlt _ hmem, and_true]
  by_cases hend : k + 1 = ring.length
  · simp only [hend, Nat.mod_self, if_true, List.head_eq_getElem hne]
  · have hnext := h.next_of_lt (k := k + 1) (by simp only [List.length_cons]; omega)
    simp only [List.getElem_cons_succ] at hnext
    rw [if_neg hend, hnext]
    simp only [Nat.mod_eq_of_lt (show k + 1 < ring.length by omega)]

/-! ## Push -/

@[simp] theorem linkPage_pages (s : State) (p : Nat) : (linkPage s p).pages = s.pages :=
  (congrArg State.pages (linkPage_frame s p) :)

@[simp] theorem linkPage_occupied (s : State) (p : Nat) : (linkPage s p).occupied = s.occupied.set p true :=
  (congrArg State.occupied (linkPage_frame s p) :)

@[simp] theorem linkPage_tail (s : State) (p : Nat) : (linkPage s p).tail = some p :=
  (congrArg State.tail (linkPage_frame s p) :)

@[simp] theorem linkPage_count (s : State) (p : Nat) : (linkPage s p).count = s.count + 1 :=
  (congrArg State.count (linkPage_frame s p) :)

/-- The links and the head after Push on an empty queue, and on one that is not. -/
theorem Ring.linkPage_links {s : State} {ring : List Nat} {p : Nat} (h : Ring s ring) :
    (ring = [] ∧ (linkPage s p).nextLink = s.nextLink.set p p ∧ (linkPage s p).head = some p) ∨
    ∃ hne : ring ≠ [], (linkPage s p).nextLink = (s.nextLink.set p (ring.head hne)).set (ring.getLast hne) p ∧
      (linkPage s p).head = ring.head? := by
  rcases eq_or_ne ring [] with rfl | hne
  · exact .inl (by simp [Machine.linkPage, show s.count = 0 from h.count])
  · have hz : s.count ≠ 0 := by simp [h.count, hne]
    exact .inr ⟨hne, by
      simp [Machine.linkPage, hz, h.head, h.tail, List.head?_eq_some_head hne, List.getLast?_eq_some_getLast hne]⟩

/-- Linking a free page whose bytes are written puts it last in the ring. -/
theorem Ring.linkPage {s : State} {ring : List Nat} {p : Nat} (h : Ring s ring) (hp : p < queuePages) (hnew : p ∉ ring)
    (hfull : ∃ P, memRead s (.page p) 0 pageBytes = .ok P ∧ (P.getD 7 0).toNat ≤ dataMax) :
    Ring (linkPage s p) (ring ++ [p]) where
  flags := by simp [h.flags]
  links := by
    rcases h.linkPage_links (p := p) with ⟨-, hlink, -⟩ | ⟨hne, hlink, -⟩ <;> simp [hlink, h.links]
  nodup := List.nodup_append.mpr ⟨h.nodup, List.nodup_singleton p, by rintro a ha b hb rfl; simp_all⟩
  occupied q hq := by
    rw [linkPage_occupied, getD_set, h.flags]
    by_cases hpq : p = q
    · simp [hpq, hq]
    · rw [if_neg (fun e => hpq e.1), h.occupied q hq]
      simp [Ne.symm hpq]
  below q hq := by
    rcases List.mem_append.mp hq with hq | hq
    · exact h.below q hq
    · exact List.mem_singleton.mp hq ▸ hp
  count := by simp [h.count]
  head := by
    rcases h.linkPage_links (p := p) with ⟨rfl, -, hhead⟩ | ⟨hne, -, hhead⟩
    · exact hhead
    · rw [hhead, List.head?_append_of_ne_nil _ hne]
  tail := by simp
  next := by
    rcases h.linkPage_links (p := p) with ⟨rfl, hlink, -⟩ | ⟨hne, hlink, -⟩ <;> rw [hlink]
    · intro k hk
      obtain rfl : k = 0 := by simpa using hk
      simp [h.links, hp]
    · exact Linked.append h.next h.nodup hne (by rw [h.links]; exact h.below) (by rw [h.links]; exact hp) hnew
  full q hq := by
    rw [memRead_congr (sp := .page q) (s := s) (linkPage_cfg s p) (linkPage_pages s p)]
    rcases List.mem_append.mp hq with hq | hq
    · exact h.full q hq
    · exact List.mem_singleton.mp hq ▸ hfull

/-- Writing a page outside the ring leaves the ring as it is. -/
theorem Ring.memWrite {s t : State} {ring : List Nat} {p a : Nat} {P : Bytes} (h : Ring s ring) (hnew : p ∉ ring)
    (hw : memWrite s (.page p) a P = .ok t) : Ring t ring := by
  have hread : ∀ q ∈ ring, memRead t (.page q) 0 pageBytes = memRead s (.page q) 0 pageBytes := by
    intro q hq
    obtain ⟨P, hP, -⟩ := h.full q hq
    rw [hP, memRead_eq_ok]
    obtain ⟨hlen, hbytes⟩ := memRead_eq_ok.mp hP
    refine ⟨hlen, fun k hk => ?_⟩
    rw [readByte_memWrite hw, if_neg (by rintro ⟨e, -⟩; cases e; exact hnew hq)]
    exact hbytes k hk
  obtain ⟨-, rfl⟩ := memWrite_eq_ok.mp hw
  exact { flags := h.flags, links := h.links, nodup := h.nodup, occupied := h.occupied, below := h.below, count := h.count
          head := h.head, tail := h.tail, next := h.next, full := fun q hq => by rw [hread q hq]; exact h.full q hq }

/-- Push of a page image appends the free page of least index to the ring (R241, R246). -/
theorem Ring.push {s t : State} {ring : List Nat} {P : Bytes} (h : Ring s ring) (hP : P.length = pageBytes)
    (hn : (P.getD 7 0).toNat ≤ dataMax) (ht : push s P = .ok (true, t)) :
    ∃ p, freePage s = some p ∧ Ring t (ring ++ [p]) := by
  rcases push_cases ht with ⟨e, -⟩ | ⟨p, u, -, -, hfree, hw, rfl⟩
  · cases e
  obtain ⟨hp, hnew⟩ := h.freePage_not_mem hfree
  have hread := memRead_memWrite_same hw
  rw [hP] at hread
  exact ⟨p, hfree, (h.memWrite hnew hw).linkPage hp hnew ⟨P, hread, hn⟩⟩

/-! ## Pull -/

@[simp] theorem unlinkPage_pages (s : State) (p : Nat) : (unlinkPage s p).pages = s.pages :=
  (congrArg State.pages (unlinkPage_frame s p) :)

@[simp] theorem unlinkPage_occupied (s : State) (p : Nat) : (unlinkPage s p).occupied = s.occupied.set p false :=
  (congrArg State.occupied (unlinkPage_frame s p) :)

@[simp] theorem unlinkPage_count (s : State) (p : Nat) : (unlinkPage s p).count = s.count - 1 :=
  (congrArg State.count (unlinkPage_frame s p) :)

/-- Head and tail are the same page exactly when it is the only one. -/
theorem Ring.head_eq_tail_iff {s : State} {p : Nat} {ring : List Nat} (h : Ring s (p :: ring)) :
    s.head = s.tail ↔ ring = [] := by
  rw [h.head, h.tail]
  rcases eq_or_ne ring [] with rfl | hne
  · simp
  · rw [List.getLast?_cons_of_ne_nil hne, List.getLast?_eq_some_getLast hne]
    simp only [List.head?_cons, Option.some.injEq, hne, iff_false]
    exact fun e => (List.nodup_cons.mp h.nodup).1 (e ▸ List.getLast_mem hne)

/-- The links and the pointers after Pull of the only page, and of the first of several. -/
theorem Ring.unlinkPage_links {s : State} {p : Nat} {ring : List Nat} (h : Ring s (p :: ring)) :
    (ring = [] ∧ (unlinkPage s p).nextLink = s.nextLink ∧ (unlinkPage s p).head = none ∧ (unlinkPage s p).tail = none) ∨
    ∃ hne : ring ≠ [], (unlinkPage s p).nextLink = s.nextLink.set (ring.getLast hne) (ring.head hne) ∧
      (unlinkPage s p).head = ring.head? ∧ (unlinkPage s p).tail = ring.getLast? := by
  by_cases hone : s.head = s.tail
  · exact .inl ⟨h.head_eq_tail_iff.mp hone, by simp [Machine.unlinkPage, hone]⟩
  · have hne : ring ≠ [] := fun e => hone (h.head_eq_tail_iff.mpr e)
    have hsecond : s.nextLink.getD p nullPage = ring.head hne := by
      have := Linked.next_of_lt h.next (k := 0) (by simpa using List.length_pos_of_ne_nil hne)
      simpa [List.head_eq_getElem hne] using this
    have htail : s.tail = some (ring.getLast hne) := by
      rw [h.tail, List.getLast?_cons_of_ne_nil hne, List.getLast?_eq_some_getLast hne]
    rw [htail] at hone
    exact .inr ⟨hne, by
      simp [-List.getD_eq_getElem?_getD, Machine.unlinkPage, hone, hsecond, htail, List.head?_eq_some_head hne,
        List.getLast?_eq_some_getLast hne]⟩

/-- Unlinking the first page of the ring leaves the others in order. -/
theorem Ring.unlinkPage {s : State} {p : Nat} {ring : List Nat} (h : Ring s (p :: ring)) : Ring (unlinkPage s p) ring where
  flags := by simp [h.flags]
  links := by
    rcases h.unlinkPage_links with ⟨-, hlink, -⟩ | ⟨hne, hlink, -⟩ <;> simp [hlink, h.links]
  nodup := (List.nodup_cons.mp h.nodup).2
  occupied q hq := by
    rw [unlinkPage_occupied, getD_set, h.flags]
    by_cases hpq : p = q
    · subst hpq
      simp [hq, (List.nodup_cons.mp h.nodup).1]
    · rw [if_neg (fun e => hpq e.1), h.occupied q hq]
      simp [Ne.symm hpq]
  below q hq := h.below q (List.mem_cons_of_mem p hq)
  count := by simp [h.count]
  head := by rcases h.unlinkPage_links with ⟨rfl, -, hhead, -⟩ | ⟨-, -, hhead, -⟩ <;> exact hhead
  tail := by rcases h.unlinkPage_links with ⟨rfl, -, -, htail⟩ | ⟨-, -, -, htail⟩ <;> exact htail
  next := by
    rcases h.unlinkPage_links with ⟨rfl, hlink, -⟩ | ⟨hne, hlink, -⟩ <;> rw [hlink]
    · intro k hk
      cases hk
    · exact Linked.tail h.next (List.nodup_cons.mp h.nodup).2 hne
        (by rw [h.links]; exact fun q hq => h.below q (List.mem_cons_of_mem p hq))
  full q hq := by
    rw [memRead_congr (sp := .page q) (s := s) (unlinkPage_cfg s p) (unlinkPage_pages s p)]
    exact h.full q (List.mem_cons_of_mem p hq)

/-- Where the queue is not empty, its head is the first page of the ring. -/
theorem Ring.head_of_count {s : State} {ring : List Nat} (h : Ring s ring) (hc : s.count ≠ 0) :
    ∃ p rest, ring = p :: rest ∧ s.head = some p := by
  cases ring with
  | nil => exact absurd h.count hc
  | cons p rest => exact ⟨p, rest, rfl, h.head⟩

/-! ## The queue invariants -/

/-- The queue invariants are a matter of the queue's registers and pages alone. -/
theorem QueueOk.congr {s t : State} (h : QueueOk s) (hc : t.cfg = s.cfg) (hp : t.pages = s.pages)
    (ho : t.occupied = s.occupied) (hn : t.nextLink = s.nextLink) (hh : t.head = s.head) (ht : t.tail = s.tail)
    (hk : t.count = s.count) : QueueOk t :=
  h.imp fun _ hr => hr.congr hc hp ho hn hh ht hk

theorem QueueOk.push {s t : State} {P : Bytes} (h : QueueOk s) (hP : P.length = pageBytes)
    (hn : (P.getD 7 0).toNat ≤ dataMax) (ht : push s P = .ok (true, t)) : QueueOk t := by
  obtain ⟨ring, hr⟩ := h
  obtain ⟨p, -, hr⟩ := hr.push hP hn ht
  exact ⟨_, hr⟩

theorem QueueOk.unlinkHead {s : State} (h : QueueOk s) (hc : s.count ≠ 0) :
    QueueOk (unlinkPage s (s.head.getD nullPage)) := by
  obtain ⟨ring, hr⟩ := h
  obtain ⟨p, rest, rfl, hh⟩ := hr.head_of_count hc
  rw [hh]
  exact ⟨rest, hr.unlinkPage⟩

end Sys2Proof.Machine
end

section
/-! The invariants of memory, buffers, burst cursor, queue and spin counter are kept by every outcome (R65, R26, R27, R33, R37,
R44). In each proof the outcomes named are the ones that write what the invariant speaks of. -/

namespace Sys2Proof.Machine

/-! ## Frames and writes -/

theorem push_frame {s t : State} {P : Bytes} {b : Bool} (h : push s P = .ok (b, t)) : t = { s with
    pages := t.pages, occupied := t.occupied, nextLink := t.nextLink, head := t.head, tail := t.tail, count := t.count } := by
  rcases push_cases h with ⟨-, rfl⟩ | ⟨p, u, -, -, -, hw, rfl⟩
  · rfl
  · obtain ⟨-, rfl⟩ := memWrite_eq_ok.mp hw
    rw [linkPage_frame]
    rfl

/-- The bytes written at the start of a space have values after the write (R60). -/
theorem readByte_isSome_of_store {s : State} {sp : Space} {bs : Bytes} (hn : bs.length ≤ sp.size s.cfg) {a : Nat}
    (ha : a < bs.length) : (readByte (s.setMemory sp ((s.memory sp).store (sp.base + 0) bs)) sp a).isSome := by
  rw [readByte_memWrite (memWrite_ok (a := 0) (by omega)), if_pos ⟨rfl, by omega, by omega⟩]
  simp [ha]

/-! ## Memory -/

theorem MemoryOk.store {s : State} (hs : MemoryOk s) (sp : Space) {bs : Bytes} (hn : bs.length ≤ sp.size s.cfg) :
    MemoryOk (s.setMemory sp ((s.memory sp).store (sp.base + 0) bs)) := hs.memWrite (memWrite_ok (a := 0) (by omega))

theorem MemoryOk.accept {s : State} (hs : MemoryOk s) (l : Latches) {bs : Bytes} (hbs : bs.length ≤ dataMax) :
    MemoryOk (accept s l (Memory.store [] 0 bs)) := by
  have hempty : MemoryOk { s with opData := [] } := by
    intro sp
    cases sp with
    | opData => exact ⟨rfl, fun c hc => nomatch hc⟩
    | rx => exact hs .rx
    | tx => exact hs .tx
    | ackb => exact hs .ackb
    | page p => exact hs (.page p)
  exact hempty.store .opData hbs

theorem Ends.memoryOk {s t : State} {c : Caller} (h : Ends s c t) (hs : MemoryOk s) : MemoryOk t := by
  cases h <;> exact hs

theorem Cycles.memoryOk {s t : State} {c : Caller} (h : Cycles s c t) (hs : MemoryOk s) : MemoryOk t := by
  cases h with
  | high => exact hs
  | low _ _ _ h => exact h.memoryOk hs

theorem Runs.memoryOk {s t : State} {i : Instr} (h : Runs s i t) (hs : MemoryOk s) : MemoryOk t := by
  cases h with
  | radio | discard | mark | quiet => exact hs
  | reply => exact hs.store .ackb (Nat.le_refl 6)
  | refuse _ l bs hbs => exact hs.accept l hbs
  | init _ _ _ l => exact hs.accept l (bs := []) (Nat.zero_le _)
  | diagnose _ l => exact hs.accept l (bs := []) (Nat.zero_le _)
  | poll l _ _ h => exact h.memoryOk (hs.accept l (bs := []) (Nat.zero_le _))
  | getMessage l =>
    rw [unlinkPage_frame]
    exact hs.accept l (bs := []) (Nat.zero_le _)
  | post _ _ _ _ _ l bs F hbs _ _ hn hF =>
    exact (hs.accept l hbs).store .tx (bs := F) (by rw [hF]; simp only [Space.size, frameMaxBytes]; omega)

theorem Performs.memoryOk {s t : State} {a : Act} (h : Performs s a t) (hs : MemoryOk s) : MemoryOk t := by
  cases h with
  | issue h => exact h.memoryOk hs
  | pollCycle h => exact h.memoryOk hs
  | endCycle h => exact h.memoryOk hs
  | frame _ _ _ h => exact h.memoryOk hs
  | storeBurst hn => exact hs.store .rx hn
  | enqueue h =>
    rcases push_cases h with ⟨e, -⟩ | ⟨p, u, -, -, -, hw, rfl⟩
    · cases e
    · rw [linkPage_frame]
      exact (hs.memWrite hw :)
  | _ => exact hs

/-! ## The bytes received and the bytes being sent -/

theorem Ends.buffersOk {s t : State} {c : Caller} (h : Ends s c t) (hs : BuffersOk s) : BuffersOk t := by
  cases h <;> exact hs

theorem Cycles.buffersOk {s t : State} {c : Caller} (h : Cycles s c t) (hs : BuffersOk s) : BuffersOk t := by
  cases h with
  | high => exact hs
  | low _ _ _ h => exact h.buffersOk hs

theorem Runs.buffersOk {s t : State} {i : Instr} (h : Runs s i t) (hs : BuffersOk s) : BuffersOk t := by
  cases h with
  | poll l _ _ h => exact h.buffersOk hs
  | getMessage l =>
    rw [unlinkPage_frame]
    exact hs
  | post _ _ _ _ _ l bs F _ _ _ hn hF =>
    have hF' : F.length ≤ frameMaxBytes := by rw [hF]; simp only [frameMaxBytes]; omega
    refine ⟨hs.1, ?_⟩
    rw [← hF]
    exact ⟨hF', fun a ha => readByte_isSome_of_store (s := s) (sp := .tx) hF' ha⟩
  | _ => exact hs

theorem Performs.buffersOk {s t : State} {a : Act} (h : Performs s a t) (hs : BuffersOk s) : BuffersOk t := by
  cases h with
  | issue h => exact h.buffersOk hs
  | pollCycle h => exact h.buffersOk hs
  | endCycle h => exact h.buffersOk hs
  | frame _ _ _ h => exact h.buffersOk hs
  | storeBurst hn => exact ⟨⟨hn, fun a ha => readByte_isSome_of_store (s := s) (sp := .rx) hn ha⟩, hs.2⟩
  | noBytes => exact ⟨⟨Nat.zero_le _, fun a ha => absurd ha (Nat.not_lt_zero a)⟩, hs.2⟩
  | enqueue h =>
    rw [push_frame h]
    exact hs
  | _ => exact hs

/-! ## The burst cursor -/

theorem Ends.cursorOk {s t : State} {c : Caller} (h : Ends s c t) (hs : CursorOk s) : CursorOk t := by
  cases h <;> exact hs

theorem Cycles.cursorOk {s t : State} {c : Caller} (h : Cycles s c t) (hs : CursorOk s) : CursorOk t := by
  cases h with
  | high => exact hs
  | low _ _ _ h => exact h.cursorOk hs

theorem Runs.cursorOk {s t : State} {i : Instr} (h : Runs s i t) (hs : CursorOk s) : CursorOk t := by
  cases h with
  | poll l _ _ h => exact h.cursorOk hs
  | getMessage l =>
    rw [unlinkPage_frame]
    exact hs
  | _ => exact hs

theorem Performs.cursorOk {s t : State} {a : Act} (h : Performs s a t) (hs : CursorOk s) : CursorOk t := by
  cases h with
  | issue h => exact h.cursorOk hs
  | pollCycle h => exact h.cursorOk hs
  | endCycle h => exact h.cursorOk hs
  | frame _ _ _ h => exact h.cursorOk hs
  | storeBurst | noBytes => simp [CursorOk]
  | advance n =>
    simp only [CursorOk, advanceCursor] at hs ⊢
    omega
  | enqueue h =>
    rw [push_frame h]
    exact hs
  | _ => exact hs

/-! ## The queue -/

theorem Ends.queueOk {s t : State} {c : Caller} (h : Ends s c t) (hs : QueueOk s) : QueueOk t := by
  cases h <;> exact hs.congr rfl rfl rfl rfl rfl rfl rfl

theorem Cycles.queueOk {s t : State} {c : Caller} (h : Cycles s c t) (hs : QueueOk s) : QueueOk t := by
  cases h with
  | high => exact hs.congr rfl rfl rfl rfl rfl rfl rfl
  | low _ _ _ h => exact h.queueOk (hs.congr rfl rfl rfl rfl rfl rfl rfl)

theorem Runs.queueOk {s t : State} {i : Instr} (h : Runs s i t) (hs : QueueOk s) : QueueOk t := by
  cases h with
  | poll l _ _ h => exact h.queueOk (hs.congr rfl rfl rfl rfl rfl rfl rfl)
  | getMessage l _ hc =>
    have haccept : QueueOk (accept s l []) := hs.congr rfl rfl rfl rfl rfl rfl rfl
    exact (haccept.unlinkHead hc).congr rfl rfl rfl rfl rfl rfl rfl
  | _ => exact hs.congr rfl rfl rfl rfl rfl rfl rfl

/-- Only pages that fit the queue are pushed: that is what the rules let the block store (R240). -/
theorem Performs.queueOk {s t : State} {a : Act} (h : Performs s a t) (ha : a.ok s.cfg) (hs : QueueOk s) : QueueOk t := by
  cases h with
  | issue h => exact h.queueOk (hs.congr rfl rfl rfl rfl rfl rfl rfl)
  | pollCycle h => exact h.queueOk hs
  | endCycle h => exact h.queueOk hs
  | frame _ _ _ h => exact h.queueOk (hs.congr rfl rfl rfl rfl rfl rfl rfl)
  | enqueue h => exact hs.push ha.1 ha.2 h
  | _ => exact hs.congr rfl rfl rfl rfl rfl rfl rfl

/-! ## The spin counter -/

theorem Ends.spinOk {s t : State} {c : Caller} (h : Ends s c t) (hs : SpinOk s) : SpinOk t := by
  cases h <;> exact hs

theorem Cycles.spinOk {s t : State} {c : Caller} (h : Cycles s c t) (hs : SpinOk s) : SpinOk t := by
  cases h with
  | high => exact hs
  | low _ _ _ h => exact h.spinOk hs

theorem Runs.spinOk {s t : State} {i : Instr} (h : Runs s i t) (hs : SpinOk s) : SpinOk t := by
  cases h with
  | poll l _ _ h => exact h.spinOk hs
  | getMessage l =>
    rw [unlinkPage_frame]
    exact hs
  | _ => exact hs

theorem Performs.spinOk {s t : State} {a : Act} (h : Performs s a t) (hs : SpinOk s) : SpinOk t := by
  cases h with
  | issue h => exact h.spinOk hs
  | pollCycle h => exact h.spinOk hs
  | endCycle h => exact h.spinOk hs
  | frame _ _ _ h => exact h.spinOk hs
  | spin p _ n hn => exact fun hl => ⟨(hs hl).1, (hn hl).trans (hs hl).2⟩
  | timeout p n hn => exact fun hl => absurd hl hn
  | enqueue h =>
    rw [push_frame h]
    exact hs
  | _ => exact hs

end Sys2Proof.Machine
end

section
/-! The invariants of the control position, the identity and the outstanding transmission (R30, R34 to R36, R21 to R23, R195),
in the two shapes they take: between commands, and with a command under way whose last action is known. -/

namespace Sys2Proof.Machine

/-! ## The two shapes -/

/-- INIT has passed its checks, and the identity holds its operands (R21, R23). -/
def State.identified (s : State) : Prop :=
  (addrMin ≤ s.deviceAddress ∧ s.deviceAddress ≤ addrMax) ∧ s.cfg.powerValid s.outputPower = true

/-- The identity is that of reset (R50). -/
def State.anonymous (s : State) : Prop := s.deviceAddress = 0 ∧ s.messageSignature = 0 ∧ s.outputPower = 0

/-- What is recorded of the frame that POST_MESSAGE is sending (R35, R69). -/
def State.outstanding (s : State) : Prop :=
  s.awaitAddr = s.latch.opRecipient ∧ s.awaitValid = decide (s.latch.opRecipient ≠ broadcastAddr) ∧
    s.txLen = 8 + s.latch.opDataLen.toNat

/-- The engine state and the actions before the last one that go with it (R30, R195). -/
def Act.phase (l : Act) (e : EngState) (inner : List Act) : Prop :=
  match l with
  | .respondValue => (e = .idle ∨ e = .receiving) ∧ ∀ a ∈ inner, ∃ i, a = .issue i
  | .initDone => e = .idle ∧ ∀ a ∈ inner, a.ofArming = true
  | .afterTransmit => e = .transmitting ∧ ∀ a ∈ inner, a.ofArming = true
  | l => l.isLast = true ∧ e ≠ .idle

/-- A burst is stored right after it has been read, once, and fits the buffer (R133, R211). -/
def BurstOk (s : State) : Prop :=
  .storeBurst ∈ s.todo →
    (∃ cmd n rest, s.todo = .issue (.readBurst cmd n) :: .storeBurst :: rest ∧ .storeBurst ∉ rest) ∨
      ∃ rest, s.todo = .storeBurst :: rest ∧ .storeBurst ∉ rest ∧ s.rdBurst.length ≤ s.cfg.fifoCap

/-- No command is in progress. -/
structure Between (s : State) : Prop where
  todo : s.todo = []
  busy : s.busy = false
  engine : s.fault = true ∨ s.engState = .idle ∨ s.engState = .receiving
  identified : s.engState ≠ .idle → s.identified
  anonymous : s.engState = .idle → s.fault = false → s.anonymous
  quiet : s.fault = false → s.awaitValid = false
  seen : s.ackSeen = true → s.awaitValid = true

/-- A command is in progress, and `l` is its last action. -/
structure Underway (s : State) (inner : List Act) (l : Act) : Prop where
  todo : s.todo = inner ++ [l]
  busy : s.busy = true
  fault : s.fault = false
  acts : ∀ a ∈ inner, a.ok s.cfg ∧ a.isLast = false
  phase : l.phase s.engState inner
  burst : BurstOk s
  identified : s.engState ≠ .idle ∨ l = .initDone → s.identified
  anonymous : s.engState = .idle → l ≠ .initDone → s.anonymous
  outstanding : l.ofPost = true → s.outstanding
  quiet : l.ofPost = false → s.awaitValid = false
  seen : s.ackSeen = true → s.awaitValid = true

/-- Control position, identity and outstanding transmission are as the rules say. -/
def CommandOk (s : State) : Prop := Between s ∨ ∃ inner l, Underway s inner l

theorem Act.phase.isLast {l : Act} {e : EngState} {inner : List Act} (h : l.phase e inner) : l.isLast = true := by
  cases l with
  | respondValue | initDone | afterTransmit => rfl
  | _ => exact h.1

theorem Act.ok_of_isLast {l : Act} (h : l.isLast = true) (c : Config) : l.ok c := by
  cases l with
  | issue | enqueue => cases h
  | _ => trivial

theorem Underway.controlOk {s : State} {inner : List Act} {l : Act} (h : Underway s inner l) : ControlOk s where
  busy := by simp [h.busy, h.todo]
  faultEnds hf := by simp [h.fault] at hf
  acts a ha := by
    rw [h.todo, List.mem_append, List.mem_singleton] at ha
    rcases ha with ha | rfl
    · exact (h.acts a ha).1
    · exact Act.ok_of_isLast h.phase.isLast _
  lastOnly a ha := by
    rw [h.todo, List.dropLast_concat] at ha
    exact (h.acts a ha).2
  phase := by
    rw [h.todo, List.getLast?_concat, List.dropLast_concat]
    have hp := h.phase
    cases l <;> exact hp
  burst := h.burst

theorem Between.controlOk {s : State} (h : Between s) : ControlOk s where
  busy := by simp [h.busy, h.todo]
  faultEnds _ := h.todo
  acts a ha := by simp [h.todo] at ha
  lastOnly a ha := by simp [h.todo] at ha
  phase := by
    rw [h.todo]
    exact h.engine
  burst hb := by simp [h.todo] at hb

theorem ControlOk.todo_nil_or_concat {s : State} (h : ControlOk s) :
    (s.todo = [] ∧ s.busy = false ∧ (s.fault = true ∨ s.engState = .idle ∨ s.engState = .receiving)) ∨
    ∃ inner l, s.todo = inner ++ [l] ∧ s.busy = true ∧ s.fault = false ∧ (∀ a ∈ inner, a.ok s.cfg ∧ a.isLast = false) ∧
      l.phase s.engState inner := by
  rcases List.eq_nil_or_concat s.todo with ht | ⟨inner, l, ht⟩
  · have hp := h.phase
    rw [ht] at hp
    exact .inl ⟨ht, by simp [h.busy, ht], hp⟩
  · rw [List.concat_eq_append] at ht
    have hp := h.phase
    have hlast := h.lastOnly
    rw [ht, List.dropLast_concat] at hlast
    rw [ht, List.getLast?_concat, List.dropLast_concat] at hp
    refine .inr ⟨inner, l, ht, by simp [h.busy, ht], ?_, fun a ha => ⟨h.acts a (by simp [ht, ha]), hlast a ha⟩, ?_⟩
    · cases hf : s.fault with
      | false => rfl
      | true => simp [h.faultEnds hf] at ht
    · cases l <;> exact hp

theorem CommandOk.controlOk {s : State} (h : CommandOk s) : ControlOk s := by
  rcases h with h | ⟨_, _, h⟩ <;> exact h.controlOk

theorem CommandOk.identityOk {s : State} (h : CommandOk s) : IdentityOk s := by
  rcases h with h | ⟨inner, l, h⟩
  · refine ⟨fun hi => h.identified (hi.resolve_right ?_), fun he _ => h.anonymous he⟩
    simp [State.initialising, h.todo]
  · have hinit : s.initialising ↔ l = .initDone := by simp [State.initialising, h.todo]
    exact ⟨fun hi => h.identified (hi.imp_right hinit.mp), fun he hni _ => h.anonymous he fun hl => hni (hinit.mpr hl)⟩

theorem CommandOk.ackOk {s : State} (h : CommandOk s) : AckOk s := by
  rcases h with h | ⟨inner, l, h⟩
  · have hpost : ¬ s.posting := by simp [State.posting, h.todo]
    exact { posting := fun hp => absurd hp hpost, between := fun _ => h.quiet, seen := h.seen }
  · have hpost : s.posting ↔ l.ofPost = true := by simp [State.posting, h.todo]
    exact { posting := fun hp => h.outstanding (hpost.mp hp), seen := h.seen
            between := fun hp _ => h.quiet (by simpa [hpost] using hp) }

/-- The three invariants of `Good` are these two shapes. -/
theorem commandOk_iff {s : State} : CommandOk s ↔ ControlOk s ∧ IdentityOk s ∧ AckOk s := by
  refine ⟨fun h => ⟨h.controlOk, h.identityOk, h.ackOk⟩, fun ⟨hc, ⟨hid, hfresh⟩, ha⟩ => ?_⟩
  rcases hc.todo_nil_or_concat with ⟨ht, hb, he⟩ | ⟨inner, l, ht, hb, hf, hacts, hp⟩
  · have hinit : ¬ s.initialising := by simp [State.initialising, ht]
    have hpost : ¬ s.posting := by simp [State.posting, ht]
    exact .inl { todo := ht, busy := hb, engine := he, identified := fun h => hid (.inl h)
                 anonymous := fun h => hfresh h hinit, quiet := ha.between hpost, seen := ha.seen }
  · have hinit : s.initialising ↔ l = .initDone := by simp [State.initialising, ht]
    have hpost : s.posting ↔ l.ofPost = true := by simp [State.posting, ht]
    exact .inr ⟨inner, l,
      { todo := ht, busy := hb, fault := hf, acts := hacts, phase := hp, burst := hc.burst
        identified := fun h => hid (h.imp_right hinit.mpr)
        anonymous := fun h hl => hfresh h (fun hi => hl (hinit.mp hi)) hf
        outstanding := fun h => ha.posting (hpost.mpr h)
        quiet := fun h => ha.between (fun hp => by simp [hpost.mp hp] at h) hf
        seen := ha.seen }⟩

end Sys2Proof.Machine
end

section
/-! What an action that is not the last of its command can do to the command: put actions before those still to do, and
touch few registers; or abandon the command by a timeout (R271). -/

namespace Sys2Proof.Machine

/-- An action that any point of a command may put before the others. -/
def Act.plain (c : Config) (a : Act) : Prop := a.ok c ∧ a.isLast = false ∧ a ≠ .storeBurst

/-- The registers that only the acceptance and the end of a command write. -/
def State.steady (s : State) :=
  (s.cfg, s.busy, s.fault, s.latch, s.deviceAddress, s.outputPower, s.messageSignature, s.txLen, s.awaitAddr, s.awaitValid)

/-- The action `a` has put `pushed` before the actions still to do. -/
structure Inner (s : State) (a : Act) (t : State) (pushed : List Act) : Prop where
  todo : t.todo = pushed ++ s.todo
  plain : ∀ p ∈ pushed, p.plain s.cfg
  steady : t.steady = s.steady
  seen : t.ackSeen = s.ackSeen ∨ s.awaitValid = true
  engine : t.engState = s.engState ∨ (a.ofArming = false ∧ t.engState ≠ .idle)
  arming : a.ofArming = true → ∀ p ∈ pushed, p.ofArming = true
  issue : ∀ i, a = .issue i → pushed = []
  burst : ∀ cmd n, a = .issue (.readBurst cmd n) → t.rdBurst.length = n

theorem transmitActs_plain {c : Config} {B : Bytes} (h1 : headerBytes ≤ B.length) (h2 : B.length ≤ frameMaxBytes) :
    ∀ p ∈ transmitActs c B, p.plain c ∧ p.ofArming = true := by
  simp [transmitActs, armReceive, Act.plain, Act.ok, Act.isLast, Act.ofArming, Instr.format, Instr.wf, h1, h2]

theorem ackFrame_length (s : State) (dest : Byte) : (ackFrame s dest).length = headerBytes := rfl

theorem Pushes.plain {c : Config} {i : Instr} {pushes : List Act} (h : Pushes c i pushes) (hw : i.wf c = true) :
    ∀ p ∈ pushes, p.plain c := by
  intro p hp
  obtain ⟨⟨page, sender, rfl⟩, hok⟩ := h p hp
  exact ⟨hok hw, rfl, by simp⟩

/-- An action that only takes itself off. -/
theorem Inner.of_nil {s t : State} {a : Act} (todo : t.todo = s.todo) (steady : t.steady = s.steady)
    (seen : t.ackSeen = s.ackSeen) (engine : t.engState = s.engState ∨ (a.ofArming = false ∧ t.engState ≠ .idle))
    (burst : ∀ cmd n, a = .issue (.readBurst cmd n) → t.rdBurst.length = n) : Inner s a t [] where
  todo := todo
  plain := by simp
  steady := steady
  seen := .inl seen
  engine := engine
  arming := by simp
  issue := by simp
  burst := burst

/-- A transaction (R131 to R135). -/
theorem Runs.inner_of_radio {s t : State} {i : Instr} (hi : i.format = .radio) (h : Runs (countCompletion s) i t) :
    Inner s (.issue i) t [] := by
  cases h with
  | radio _ b B env tick e he hB => exact .of_nil rfl rfl rfl (.inl rfl) fun cmd n hr => hB cmd n (Act.issue.inj hr)
  | discard hf | mark hf | quiet hf | reply hf | refuse hf | diagnose hf => cases hi.symm.trans hf
  | init | poll | getMessage | post => cases hi

/-- The actions that come after a frame at the burst cursor. -/
theorem advance_split_plain (c : Config) (n : Nat) : ∀ p ∈ [Act.advance n, .split], p.plain c := by
  simp [Act.plain, Act.ok, Act.isLast]

/-- A frame at the burst cursor (R213). -/
theorem Runs.inner_of_frame {s t : State} {i : Instr} {n : Nat} (hi : i.format = .frame) (hw : i.wf s.cfg = true)
    (h : Runs (s.plan [.advance n, .split]) i t) : ∃ pushed, Inner s .split t pushed := by
  have hsplit := advance_split_plain s.cfg n
  cases h with
  | discard _ tok =>
    exact ⟨[.advance n, .split],
      { todo := rfl, plain := hsplit, steady := rfl, seen := .inl rfl, engine := .inl rfl, arming := by simp [Act.ofArming]
        issue := by simp, burst := by simp }⟩
  | mark _ hv =>
    exact ⟨[.advance n, .split],
      { todo := rfl, plain := hsplit, steady := rfl, seen := .inr hv, engine := .inl rfl, arming := by simp [Act.ofArming]
        issue := by simp, burst := by simp }⟩
  | quiet _ pushes hp =>
    refine ⟨pushes ++ [.advance n, .split],
      { todo := (List.append_assoc ..).symm, plain := ?_, steady := rfl, seen := .inl rfl, engine := .inl rfl
        arming := by simp [Act.ofArming], issue := by simp, burst := by simp }⟩
    exact List.forall_mem_append.mpr ⟨hp.plain hw, hsplit⟩
  | reply _ dest pushes hp =>
    refine ⟨transmitActs s.cfg (ackFrame s dest) ++ (.receiving :: pushes) ++ [.advance n, .split],
      { todo := (List.append_assoc ..).symm, plain := ?_, steady := rfl, seen := .inl rfl
        engine := .inr ⟨rfl, by simp⟩, arming := by simp [Act.ofArming], issue := by simp, burst := by simp }⟩
    have hack : ∀ p ∈ transmitActs s.cfg (ackFrame s dest), p.plain s.cfg := fun p hp =>
      (transmitActs_plain (ackFrame_length s dest).ge (by decide : 6 ≤ frameMaxBytes) p hp).1
    have hrecv : Act.plain s.cfg .receiving := ⟨trivial, rfl, by simp⟩
    exact List.forall_mem_append.mpr
      ⟨List.forall_mem_append.mpr ⟨hack, List.forall_mem_cons.mpr ⟨hrecv, hp.plain hw⟩⟩, hsplit⟩
  | radio hf | refuse hf | diagnose hf => cases hi.symm.trans hf
  | init | poll | getMessage | post => cases hi

/-- What an action that is not the last can do: a timeout, or what `Inner` says. -/
theorem Performs.inner {s t : State} {a : Act} (h : Performs s a t) (hlast : a.isLast = false) (hok : a.ok s.cfg) :
    (∃ p n, s.cfg.spinLimit ≠ none ∧ a = .test p ∧ t = abortTimeout { s with spinCount := n } p) ∨
      ∃ pushed, Inner s a t pushed := by
  cases h with
  | issue h => exact .inr ⟨[], h.inner_of_radio hok.1⟩
  | frame n hi hw h => exact .inr (h.inner_of_frame hi hw)
  | timeout p n hn => exact .inl ⟨p, n, hn, rfl, rfl⟩
  | spin p ha n hn =>
    refine .inr ⟨[.issue (.readReg s.cfg.radio.regMarcstate), .test p],
      { todo := rfl, plain := ?_, steady := rfl, seen := .inl rfl, engine := .inl rfl, arming := ?_, issue := ?_
        burst := ?_ }⟩
    · simp [Act.plain, Act.ok, Act.isLast, Instr.format, Instr.wf]
    · simp [Act.ofArming]
    · rintro i rfl
      simp at ha
    · rintro cmd n rfl
      simp at ha
  | malformed w n =>
    exact .inr ⟨[.advance n, .split],
      { todo := rfl, plain := advance_split_plain s.cfg n, steady := rfl, seen := .inl rfl, engine := .inl rfl
        arming := by simp [Act.ofArming], issue := by simp, burst := by simp }⟩
  | enqueue h =>
    rw [push_frame h]
    exact .inr ⟨[], .of_nil rfl rfl rfl (.inl rfl) (by simp)⟩
  | receiving => exact .inr ⟨[], .of_nil rfl rfl rfl (.inr ⟨rfl, by simp⟩) (by simp)⟩
  | configure | seen | storeBurst | splitEnd | advance | drop | wait =>
    exact .inr ⟨[], .of_nil rfl rfl rfl (.inl rfl) (by simp)⟩
  | respondValue | pollCycle | overflow | noBytes | bytes | endCycle | initDone | broadcast | unicast => cases hlast

end Sys2Proof.Machine
end

section
/-! Every action, and every acceptance between commands, keeps the invariants of the command (R30, R34 to R36, R195). -/

namespace Sys2Proof.Machine

/-! ## An action that is not the last -/

theorem Act.phase.advance {l a : Act} {e e' : EngState} {inner pushed : List Act} (h : l.phase e (a :: inner))
    (engine : e' = e ∨ (a.ofArming = false ∧ e' ≠ .idle)) (arming : a.ofArming = true → ∀ p ∈ pushed, p.ofArming = true)
    (issue : ∀ i, a = .issue i → pushed = []) : l.phase e' (pushed ++ inner) := by
  have hsame (ha : a.ofArming = true) : e' = e := engine.resolve_right fun hn => by simp [ha] at hn
  have hrest (ha : a.ofArming = true ∧ ∀ b ∈ inner, b.ofArming = true) : ∀ b ∈ pushed ++ inner, b.ofArming = true :=
    List.forall_mem_append.mpr ⟨arming ha.1, ha.2⟩
  cases l with
  | respondValue =>
    obtain ⟨he, hall⟩ := h
    obtain ⟨⟨i, rfl⟩, hinner⟩ := List.forall_mem_cons.mp hall
    rw [hsame rfl, issue i rfl]
    exact ⟨he, hinner⟩
  | initDone | afterTransmit =>
    have hall := List.forall_mem_cons.mp h.2
    exact ⟨(hsame hall.1).trans h.1, hrest hall⟩
  | _ => exact ⟨h.1, engine.elim (fun e => e ▸ h.2) fun hn => hn.2⟩

/-- What INIT and the diagnostics do before their last action is all of arming, so another action tells a running block. -/
theorem Act.phase.not_idle {l a : Act} {e : EngState} {inner : List Act} (h : l.phase e (a :: inner))
    (ha : a.ofArming = false) : e ≠ .idle := by
  cases l with
  | respondValue =>
    obtain ⟨i, rfl⟩ := h.2 a List.mem_cons_self
    cases ha
  | initDone => simp [h.2 a List.mem_cons_self] at ha
  | afterTransmit => simp [h.1]
  | _ => exact h.2

theorem BurstOk.advance {s t : State} {a : Act} {rest pushed : List Act} (h : BurstOk s) (hs : s.todo = a :: rest)
    (hok : a.ok s.cfg) (hcfg : t.cfg = s.cfg) (x : Inner { s with todo := rest } a t pushed) : BurstOk t := by
  intro hmem
  have hmem : .storeBurst ∈ rest := by
    rw [x.todo] at hmem
    exact (List.mem_append.mp hmem).resolve_left fun hp => (x.plain _ hp).2.2 rfl
  rcases h (by simp [hs, hmem]) with ⟨cmd, n, rest', ht, hnot⟩ | ⟨rest', ht, hnot, -⟩
  · obtain ⟨rfl, rfl⟩ : a = .issue (.readBurst cmd n) ∧ rest = .storeBurst :: rest' := by simpa [hs] using ht
    have hn : n ≤ s.cfg.fifoCap := by
      have hw := hok.2
      simp only [Instr.wf, Bool.and_eq_true, decide_eq_true_eq] at hw
      exact hw.1.2
    refine .inr ⟨rest', by rw [x.todo, x.issue _ rfl]; rfl, hnot, ?_⟩
    rw [x.burst cmd n rfl, hcfg]
    exact hn
  · obtain ⟨-, rfl⟩ : a = .storeBurst ∧ rest = rest' := by simpa [hs] using ht
    exact absurd hmem hnot

/-- The command goes on with what the action put in its place. -/
theorem Underway.advance {s t : State} {a l : Act} {inner pushed : List Act} (h : Underway s (a :: inner) l)
    (x : Inner { s with todo := inner ++ [l] } a t pushed) : Underway t (pushed ++ inner) l := by
  obtain ⟨hcfg, hbusy, hfault, hlatch, haddr, hpower, hsig, htxLen, hawait, hvalid⟩ :=
    (by simpa only [State.steady, Prod.mk.injEq] using x.steady : _ ∧ _ ∧ _ ∧ _ ∧ _ ∧ _ ∧ _ ∧ _ ∧ _ ∧ _)
  obtain ⟨⟨hok, hnotLast⟩, hinner⟩ := List.forall_mem_cons.mp h.acts
  have hidle (he : t.engState = .idle) : s.engState = .idle := by
    rcases x.engine with e | ⟨-, e⟩
    · exact e ▸ he
    · exact absurd he e
  have hrunning (he : t.engState ≠ .idle) : s.engState ≠ .idle := by
    rcases x.engine with e | ⟨ha, -⟩
    · exact e ▸ he
    · exact h.phase.not_idle ha
  have hid : t.identified ↔ s.identified := by simp only [State.identified, haddr, hpower, hcfg]
  have hanon : t.anonymous ↔ s.anonymous := by simp only [State.anonymous, haddr, hpower, hsig]
  have hout : t.outstanding ↔ s.outstanding := by simp only [State.outstanding, hawait, hvalid, hlatch, htxLen]
  exact {
    todo := by rw [x.todo, List.append_assoc]
    busy := hbusy.trans h.busy
    fault := hfault.trans h.fault
    acts := by
      rw [hcfg]
      exact List.forall_mem_append.mpr ⟨fun p hp => ⟨(x.plain p hp).1, (x.plain p hp).2.1⟩, hinner⟩
    phase := h.phase.advance x.engine x.arming x.issue
    burst := h.burst.advance h.todo hok hcfg x
    identified := fun hi => hid.mpr (h.identified (hi.imp_left hrunning))
    anonymous := fun he hl => hanon.mpr (h.anonymous (hidle he) hl)
    outstanding := fun hl => hout.mpr (h.outstanding hl)
    quiet := fun hl => hvalid.trans (h.quiet hl)
    seen := fun hs => by
      rw [hvalid]
      exact x.seen.elim (fun e => h.seen (e ▸ hs)) id }

/-- A timeout abandons the command and leaves everything else (R271). -/
theorem Underway.timeout {s : State} {inner : List Act} {l : Act} (h : Underway s inner l) (acts : List Act) (n : Nat)
    (p : Awaited) : Between (abortTimeout { s with todo := acts, spinCount := n } p) where
  todo := rfl
  busy := rfl
  engine := .inl rfl
  identified hi := h.identified (.inl hi)
  anonymous _ hf := nomatch hf
  quiet hf := nomatch hf
  seen := h.seen

theorem Underway.performs {s t : State} {a l : Act} {inner : List Act} (h : Underway s (a :: inner) l)
    (ht : Performs { s with todo := inner ++ [l] } a t) : CommandOk t := by
  obtain ⟨hok, hlast⟩ := h.acts a List.mem_cons_self
  rcases ht.inner hlast hok with ⟨p, n, -, -, rfl⟩ | ⟨pushed, x⟩
  · exact .inl (h.timeout _ n p)
  · exact .inr ⟨_, _, h.advance x⟩

/-! ## A poll cycle -/

/-- What holds through a poll cycle of POLL and of POST_MESSAGE (R195, R187). -/
structure Cycling (s : State) (c : Caller) : Prop where
  busy : s.busy = true
  fault : s.fault = false
  running : s.engState ≠ .idle
  identified : s.identified
  outstanding : c = .post → s.outstanding
  quiet : c = .poll → s.awaitValid = false
  seen : s.ackSeen = true → s.awaitValid = true

/-- The last action of a poll cycle's phases. -/
def Act.ofCycle (c : Caller) (l : Act) : Prop := l = .pollCycle c ∨ l = .rxCount c ∨ ∃ ovf, l = .endCycle c ovf

theorem Act.ofCycle.ofPost {c : Caller} {l : Act} (h : l.ofCycle c) : l.ofPost = true ↔ c = .post := by
  rcases h with rfl | rfl | ⟨ovf, rfl⟩ <;> cases c <;> simp [Act.ofPost]

theorem Act.ofCycle.phase {c : Caller} {l : Act} (h : l.ofCycle c) {e : EngState} (he : e ≠ .idle) (inner : List Act) :
    l.phase e inner := by
  rcases h with rfl | rfl | ⟨ovf, rfl⟩ <;> exact ⟨rfl, he⟩

theorem Underway.cycling {s : State} {inner : List Act} {l : Act} {c : Caller} (h : Underway s inner l)
    (hl : l.ofCycle c) : Cycling s c := by
  have hrunning : s.engState ≠ .idle := by
    have hp := h.phase
    rcases hl with rfl | rfl | ⟨ovf, rfl⟩ <;> exact hp.2
  exact {
    busy := h.busy, fault := h.fault, running := hrunning, identified := h.identified (.inl hrunning), seen := h.seen
    outstanding := fun hc => h.outstanding (hl.ofPost.mpr hc)
    quiet := fun hc => h.quiet (by rw [← Bool.not_eq_true, hl.ofPost, hc]; simp) }

theorem Cycling.underway {s : State} {inner : List Act} {l : Act} {c : Caller} (h : Cycling s c) (hl : l.ofCycle c)
    (ht : s.todo = inner ++ [l]) (hacts : ∀ a ∈ inner, a.ok s.cfg ∧ a.isLast = false) (hburst : BurstOk s) :
    CommandOk s := by
  refine .inr ⟨inner, l,
    { todo := ht, busy := h.busy, fault := h.fault, acts := hacts, phase := hl.phase h.running inner, burst := hburst
      identified := fun _ => h.identified, anonymous := fun he => absurd he h.running
      outstanding := fun hp => h.outstanding (hl.ofPost.mp hp), quiet := fun hp => h.quiet ?_, seen := h.seen }⟩
  cases c with
  | poll => rfl
  | post => simp [hl.ofPost.mpr rfl] at hp

theorem BurstOk.of_not_mem {s : State} (h : .storeBurst ∉ s.todo) : BurstOk s := fun hm => absurd hm h

/-- The transmission of a frame starts (R185). -/
theorem underway_of_attempt {s : State} {B : Bytes} (h1 : headerBytes ≤ B.length) (h2 : B.length ≤ frameMaxBytes)
    (ht : s.todo = transmitActs s.cfg B ++ [.afterTransmit]) (busy : s.busy = true) (fault : s.fault = false)
    (engine : s.engState = .transmitting) (identified : s.identified) (outstanding : s.outstanding)
    (seen : s.ackSeen = true → s.awaitValid = true) : CommandOk s := by
  have hplain := transmitActs_plain (c := s.cfg) h1 h2
  refine .inr ⟨transmitActs s.cfg B, .afterTransmit,
    { todo := ht, busy := busy, fault := fault, acts := fun a ha => ⟨(hplain a ha).1.1, (hplain a ha).1.2.1⟩
      phase := ⟨engine, fun a ha => (hplain a ha).2⟩, burst := .of_not_mem ?_, identified := fun _ => identified
      anonymous := fun he => by simp [engine] at he, outstanding := fun _ => outstanding, quiet := (fun hp => nomatch hp)
      seen := seen }⟩
  rw [ht]
  simp [transmitActs, armReceive]

/-- A command ends in RECEIVING with nobody waiting for an ACK. -/
theorem between_of_receiving {s : State} (ht : s.todo = []) (busy : s.busy = false) (engine : s.engState = .receiving)
    (identified : s.identified) (quiet : s.awaitValid = false) (seen : s.ackSeen = true → s.awaitValid = true) :
    CommandOk s :=
  .inl { todo := ht, busy := busy, engine := .inr (.inr engine), identified := fun _ => identified
         anonymous := fun he => by simp [engine] at he, quiet := fun _ => quiet, seen := seen }

theorem Cycling.ends {s t : State} {c : Caller} (h : Cycling s c) (hb : BuffersOk s) (ht : Ends s c t) : CommandOk t := by
  cases ht with
  | polled r => exact between_of_receiving rfl rfl rfl h.identified (h.quiet rfl) h.seen
  | posted n g r => exact between_of_receiving rfl rfl rfl h.identified rfl (fun hs => nomatch hs)
  | retry B hB =>
    have hlen : B.length = 8 + s.latch.opDataLen.toNat := (memRead_length hB).trans (h.outstanding rfl).2.2
    have hle : B.length ≤ frameMaxBytes := (memRead_length hB).le.trans hb.2.1
    exact underway_of_attempt (by rw [hlen]; simp only [headerBytes]; omega) hle rfl h.busy h.fault rfl h.identified
      (h.outstanding rfl) h.seen

theorem Cycling.cycles {s t : State} {c : Caller} (h : Cycling s c) (hb : BuffersOk s) (hs : s.todo = [])
    (ht : Cycles s c t) : CommandOk t := by
  cases ht with
  | high env tick v =>
    refine Cycling.underway (c := c) (inner := [.issue (.readReg s.cfg.radio.regRxbytes)]) { h with } (.inr (.inl rfl))
      (by simp [hs]) ?_ (.of_not_mem (by simp [hs]))
    simp [Act.ok, Act.isLast, Instr.format, Instr.wf]
  | low env tick v ht =>
    have hc : Cycling { s with env := env, tick := tick, hist := s.hist ++ [.lineSample v] } c := { h with }
    exact hc.ends hb ht

/-! ## The last action of a command -/

/-- The count has been read (R141, R211, R212). -/
theorem Cycling.counted {s t : State} {c : Caller} (h : Cycling s c) (hs : s.todo = [])
    (ht : Performs s (.rxCount c) t) : CommandOk t := by
  have hend (ovf : Bool) : (Act.endCycle c ovf).ofCycle c := .inr (.inr ⟨ovf, rfl⟩)
  cases ht with
  | overflow _ ovf n =>
    refine Cycling.underway (inner := flushRearm s.cfg) { h with } (hend true) (by simp [hs]) ?_ (.of_not_mem ?_)
    · simp [flushRearm, armReceive, Act.ok, Act.isLast, Instr.format, Instr.wf]
    · simp [flushRearm, armReceive, hs]
  | noBytes =>
    exact Cycling.underway (inner := []) { h with } (hend false) (by simp [hs]) (by simp) (.of_not_mem (by simp [hs]))
  | bytes _ n h0 hn h8 =>
    refine Cycling.underway (inner := [.issue (.readBurst s.cfg.radio.cmdRxfifo n), .storeBurst, .split]) { h with }
      (hend false) (by simp [hs]) ?_ fun _ => .inl ⟨_, n, _, rfl, by simp [hs]⟩
    simp [Act.ok, Act.isLast, Instr.format, Instr.wf, hn, h8, Nat.one_le_iff_ne_zero.mpr h0]
  | spin p ha => simp at ha

theorem Underway.ends {s t : State} {l : Act} (h : Underway s [] l) (hb : BuffersOk s)
    (ht : Performs { s with todo := [] } l t) : CommandOk t := by
  have hlast := h.phase.isLast
  have hcycling {c : Caller} (hl : l.ofCycle c) : Cycling { s with todo := [] } c := { h.cycling hl with }
  cases ht with
  | pollCycle ht => exact (hcycling (.inl rfl)).cycles hb rfl ht
  | endCycle ht => exact (hcycling (.inr (.inr ⟨_, rfl⟩))).ends hb ht
  | overflow c ovf n => exact (hcycling (.inr (.inl rfl))).counted rfl (.overflow c ovf n)
  | noBytes c => exact (hcycling (.inr (.inl rfl))).counted rfl (.noBytes c)
  | bytes c n h0 hn h8 => exact (hcycling (.inr (.inl rfl))).counted rfl (.bytes c n h0 hn h8)
  | respondValue =>
    exact .inl { todo := rfl, busy := rfl, engine := .inr h.phase.1, identified := fun he => h.identified (.inl he)
                 anonymous := fun he _ => h.anonymous he (by simp), quiet := fun _ => h.quiet rfl, seen := h.seen }
  | initDone r =>
    exact between_of_receiving rfl rfl rfl (h.identified (.inr rfl)) (h.quiet rfl) h.seen
  | broadcast hr r =>
    have hquiet : s.awaitValid = false := by
      rw [(h.outstanding rfl).2.1]
      simpa using hr
    exact between_of_receiving rfl rfl rfl (h.identified (.inl (by simp [h.phase.1]))) hquiet h.seen
  | unicast =>
    have hc : Cycling (({ s with todo := [] } : State).enter .awaitingAck) .post :=
      { busy := h.busy, fault := h.fault, running := by simp, identified := h.identified (.inl (by simp [h.phase.1]))
        outstanding := fun _ => h.outstanding rfl, quiet := (fun e => nomatch e), seen := h.seen }
    refine Cycling.underway (c := .post) (l := .pollCycle .post) (inner := [.wait]) { hc with } (.inl rfl) rfl ?_
      (.of_not_mem (by simp))
    simp [Act.ok, Act.isLast]
  | spin p ha => rcases ha with rfl | rfl <;> cases hlast
  | issue | configure | seen | timeout | storeBurst | splitEnd | malformed | frame | advance | enqueue | drop | receiving
  | wait => cases hlast

/-- An action of the command in progress keeps the invariants of the command. -/
theorem CommandOk.performs {s t : State} {a : Act} {rest : List Act} (h : CommandOk s) (hb : BuffersOk s)
    (hs : s.todo = a :: rest) (ht : Performs { s with todo := rest } a t) : CommandOk t := by
  rcases h with h | ⟨inner, l, h⟩
  · cases hs.symm.trans h.todo
  · have htodo := hs.symm.trans h.todo
    cases inner with
    | nil =>
      obtain ⟨rfl, rfl⟩ : a = l ∧ rest = [] := by simpa using htodo
      exact h.ends hb ht
    | cons b inner =>
      obtain ⟨rfl, rfl⟩ : a = b ∧ rest = inner ++ [l] := by simpa using htodo
      exact h.performs ht

/-! ## The acceptance of a command -/

theorem CommandOk.between {s : State} (h : CommandOk s) (hs : s.todo = []) : Between s := by
  rcases h with h | ⟨inner, l, h⟩
  · exact h
  · simp [h.todo] at hs

/-- A command that ends where it is accepted leaves the block between commands, as it was. -/
theorem Between.respond {s t : State} (h : Between s) (ht : t.todo = []) (hb : t.busy = false) (hcfg : t.cfg = s.cfg)
    (hfault : t.fault = s.fault) (hengine : t.engState = s.engState) (haddr : t.deviceAddress = s.deviceAddress)
    (hsig : t.messageSignature = s.messageSignature) (hpower : t.outputPower = s.outputPower)
    (hvalid : t.awaitValid = s.awaitValid) (hseen : t.ackSeen = s.ackSeen) : Between t where
  todo := ht
  busy := hb
  engine := by rw [hfault, hengine]; exact h.engine
  identified := by simpa only [State.identified, hengine, haddr, hpower, hcfg] using h.identified
  anonymous := by simpa only [State.anonymous, hengine, hfault, haddr, hpower, hsig] using h.anonymous
  quiet := by rw [hfault, hvalid]; exact h.quiet
  seen := by rw [hseen, hvalid]; exact h.seen

/-- A command instruction, run between commands. -/
theorem Between.runs {s t : State} {i : Instr} (h : Between s) (hb : BuffersOk s) (hi : i.format = .cmd)
    (ht : Runs s i t) : CommandOk t := by
  cases ht with
  | refuse => exact .inl (h.respond rfl rfl rfl rfl rfl rfl rfl rfl rfl rfl)
  | getMessage l =>
    rw [unlinkPage_frame]
    exact .inl (h.respond rfl rfl rfl rfl rfl rfl rfl rfl rfl rfl)
  | init a p g l hf he h1 h2 hp =>
    refine .inr ⟨.configure p :: armReceive s.cfg, .initDone,
      { todo := rfl, busy := rfl, fault := hf, acts := ?_, phase := ⟨he, ?_⟩, burst := .of_not_mem ?_
        identified := fun _ => ⟨⟨h1, h2⟩, hp⟩, anonymous := fun _ hl => absurd rfl hl, outstanding := (fun hl => nomatch hl)
        quiet := fun _ => h.quiet hf, seen := h.seen }⟩
    · simp [armReceive, Act.ok, Act.isLast, Instr.format, Instr.wf]
    · simp [armReceive, Act.ofArming]
    · simp [armReceive]
  | diagnose _ l id hf =>
    refine .inr ⟨[.issue (.readReg id)], .respondValue,
      { todo := rfl, busy := rfl, fault := hf, acts := ?_, phase := ⟨h.engine.resolve_left (by simp [hf]), ?_⟩
        burst := .of_not_mem (by simp), identified := fun he => h.identified (he.resolve_right (by simp))
        anonymous := fun he _ => h.anonymous he hf, outstanding := (fun hl => nomatch hl), quiet := fun _ => h.quiet hf
        seen := h.seen }⟩
    · simp [Act.ok, Act.isLast, Instr.format, Instr.wf]
    · simp
  | poll l hf he ht =>
    have hc : Cycling (accept s l []) .poll :=
      { busy := rfl, fault := hf, running := he, identified := h.identified he, outstanding := (fun e => nomatch e)
        quiet := fun _ => h.quiet hf, seen := h.seen }
    exact hc.cycles hb h.todo ht
  | post r m n d k l bs F hbs hf he hn hF =>
    exact underway_of_attempt (by rw [hF]; simp only [headerBytes]; omega) (by rw [hF]; simp only [frameMaxBytes]; omega)
      rfl rfl hf rfl (h.identified he) ⟨rfl, rfl, rfl⟩ (fun hs => nomatch hs)
  | radio hf | discard hf | mark hf | quiet hf | reply hf => cases hi.symm.trans hf

end Sys2Proof.Machine
end

section
/-! The invariants together: they hold after reset, and every step keeps them (R44, R50, R30 to R37, R21 to R23, R65). -/

namespace Sys2Proof.Machine

theorem Good.commandOk {s : State} (h : Good s) : CommandOk s := commandOk_iff.mpr ⟨h.control, h.identity, h.ack⟩

/-! ## After reset -/

theorem Config.fallbackIds_wf : Config.fallbackIds.wf = true := by decide

/-- The default parameters meet R7's constraints, whatever the open ones are. -/
theorem Config.default_wf : Config.default.wf = true := by
  have hradio : Config.default.radio.wf = true := by
    simp only [Config.default]
    split
    · assumption
    · exact Config.fallbackIds_wf
  have hrest : (decide (42 ≤ Config.default.fifoCap) && decide (Config.default.ptAck ≠ Config.default.ptMsg) &&
      (!Config.default.powerLevels.contains 0 && decide Config.default.powerLevels.Nodup &&
        decide (Config.default.powerLevels.length = 8)) &&
      decide (1 ≤ Config.default.maxRetriesBits) && decide (Config.default.spinLimit ≠ some 0)) = true := by decide
  simp only [Config.wf, hrest, hradio, Bool.and_self]

/-- The empty queue is a ring of no pages. -/
theorem ring_assertReset (s : State) : Ring (assertReset s) [] where
  flags := rfl
  links := rfl
  nodup := List.nodup_nil
  occupied := by
    have hfree : ∀ p < queuePages, (List.replicate 20 false).getD p false = true ↔ p ∈ ([] : List Nat) := by decide
    exact hfree
  below p hp := nomatch hp
  count := rfl
  head := rfl
  tail := rfl
  next k hk := nomatch hk
  full p hp := nomatch hp

theorem between_assertReset (s : State) : Between (assertReset s) where
  todo := rfl
  busy := rfl
  engine := .inr (.inl rfl)
  identified he := absurd rfl he
  anonymous _ _ := ⟨rfl, rfl, rfl⟩
  quiet _ := rfl
  seen hs := nomatch hs

theorem good_assertReset {s : State} (h : s.cfg.wf = true) : Good (assertReset s) where
  config := h
  memory sp := by cases sp <;> exact ⟨rfl, fun c hc => nomatch hc⟩
  buffers := ⟨⟨Nat.zero_le _, fun a ha => absurd ha (Nat.not_lt_zero a)⟩,
    ⟨Nat.zero_le _, fun a ha => absurd ha (Nat.not_lt_zero a)⟩⟩
  cursor := rfl
  queue := ⟨[], ring_assertReset s⟩
  control := (between_assertReset s).controlOk
  identity := CommandOk.identityOk (.inl (between_assertReset s))
  ack := CommandOk.ackOk (.inl (between_assertReset s))
  spin _ := ⟨rfl, rfl⟩

/-! ## Every step -/

theorem Good.performs {s t : State} {a : Act} {rest : List Act} (h : Good s) (hs : s.todo = a :: rest)
    (ht : Performs { s with todo := rest } a t) (hcfg : t.cfg = s.cfg) : Good t := by
  have hok : a.ok s.cfg := h.control.acts a (by simp [hs])
  obtain ⟨hcontrol, hidentity, hack⟩ := commandOk_iff.mp (h.commandOk.performs h.buffers hs ht)
  exact {
    config := hcfg ▸ h.config
    memory := ht.memoryOk h.memory
    buffers := ht.buffersOk h.buffers
    cursor := ht.cursorOk h.cursor
    queue := ht.queueOk hok (h.queue.congr rfl rfl rfl rfl rfl rfl rfl)
    control := hcontrol, identity := hidentity, ack := hack
    spin := ht.spinOk h.spin }

theorem Good.runs {s t : State} {i : Instr} (h : Good s) (others : List Bytes) (hs : s.todo = []) (hi : i.format = .cmd)
    (ht : Runs { s with cmdPort := others } i t) (hcfg : t.cfg = s.cfg) : Good t := by
  have hbetween : Between { s with cmdPort := others } := { h.commandOk.between hs with }
  obtain ⟨hcontrol, hidentity, hack⟩ := commandOk_iff.mp (hbetween.runs h.buffers hi ht)
  exact {
    config := hcfg ▸ h.config
    memory := ht.memoryOk h.memory
    buffers := ht.buffersOk h.buffers
    cursor := ht.cursorOk h.cursor
    queue := ht.queueOk (h.queue.congr rfl rfl rfl rfl rfl rfl rfl)
    control := hcontrol, identity := hidentity, ack := hack
    spin := ht.spinOk h.spin }

/-- Settles O57: reset gives the state after reset, and each action and each acceptance keeps the invariants one by one. -/
theorem stepKeepsGood : Obligations.StepKeepsGood := by
  intro s t h hstep
  have hcfg := stepKeepsTheParameters s t hstep
  cases Steps.of_step hstep with
  | reset => exact good_assertReset h.config
  | stay => exact h
  | action hs ht => exact h.performs hs ht hcfg
  | command hs _ _ hd ht => exact h.runs _ hs (decodeCmd_format hd).1 ht hcfg
  | reserved op hs => exact h.runs (i := .poll) _ hs rfl (Runs.of_reserved _ op rfl) hcfg

/-- Settles O58: the state after reset is the state that reset gives, with the default parameters. -/
theorem resetIsGood : Obligations.ResetIsGood := good_assertReset (s := State.reset) Config.default_wf

end Sys2Proof.Machine
end

section
/-! What only the acceptance of a command writes: the records offered, the identity and the transmit buffer (R36, R45, R21 to
R23, R27); and the balance of acceptances and responses (R45). -/

namespace Sys2Proof.Machine

/-! ## The records at the port -/

theorem Ends.cmdPort {s t : State} {c : Caller} (h : Ends s c t) : t.cmdPort = s.cmdPort := by
  cases h <;> rfl

theorem Cycles.cmdPort {s t : State} {c : Caller} (h : Cycles s c t) : t.cmdPort = s.cmdPort := by
  cases h with
  | high => rfl
  | low _ _ _ h => exact (h.cmdPort :)

theorem Runs.cmdPort {s t : State} {i : Instr} (h : Runs s i t) : t.cmdPort = s.cmdPort := by
  cases h with
  | poll l _ _ h => exact (h.cmdPort :)
  | getMessage l =>
    rw [unlinkPage_frame]
    rfl
  | _ => rfl

theorem Performs.cmdPort {s t : State} {a : Act} (h : Performs s a t) : t.cmdPort = s.cmdPort := by
  cases h with
  | issue h => exact (h.cmdPort :)
  | pollCycle h => exact h.cmdPort
  | endCycle h => exact h.cmdPort
  | frame _ _ _ h => exact (h.cmdPort :)
  | enqueue h => rw [push_frame h]
  | _ => rfl

/-- Settles O12: a busy block goes on with its command or stays where it is, and no action takes a record. -/
theorem busyPortAcceptsNothing : Obligations.BusyPortAcceptsNothing := by
  intro s t hbusy hreset hstep
  cases Steps.of_step hstep with
  | reset hr => simp [hreset] at hr
  | stay => rfl
  | action _ h => exact (h.cmdPort :)
  | command _ hb | reserved _ _ hb => simp [hbusy] at hb

/-! ## What only an acceptance writes -/

/-- The registers that nothing but reset and the acceptance of a command writes: the identity and the frame being sent. -/
def State.settled (s : State) := (s.deviceAddress, s.outputPower, s.messageSignature, s.txBuf, s.txLen)

theorem Ends.settled {s t : State} {c : Caller} (h : Ends s c t) : t.settled = s.settled := by
  cases h <;> rfl

theorem Cycles.settled {s t : State} {c : Caller} (h : Cycles s c t) : t.settled = s.settled := by
  cases h with
  | high => rfl
  | low _ _ _ h => exact (h.settled :)

/-- Frames and transactions are no acceptance. -/
theorem Runs.settled {s t : State} {i : Instr} (h : Runs s i t) (hi : i.format ≠ .cmd) : t.settled = s.settled := by
  cases h with
  | radio | discard | mark | quiet | reply => rfl
  | refuse hf | diagnose hf => exact absurd hf hi
  | init | poll | getMessage | post => exact absurd rfl hi

theorem Performs.settled {s t : State} {a : Act} (h : Performs s a t) (hok : a.ok s.cfg) : t.settled = s.settled := by
  cases h with
  | issue h => exact (h.settled (by simp [hok.1]) :)
  | pollCycle h => exact h.settled
  | endCycle h => exact h.settled
  | frame _ hi _ h => exact (h.settled (by simp [hi]) :)
  | enqueue h =>
    rw [push_frame h]
    rfl
  | _ => rfl

/-- Of the commands only INIT writes the identity, in IDLE and with its operands (R181). -/
theorem Runs.identity {s t : State} {i : Instr} (h : Runs s i t) :
    (t.deviceAddress, t.outputPower, t.messageSignature) = (s.deviceAddress, s.outputPower, s.messageSignature) ∨
    ∃ a p g, i = .init a p g ∧ s.engState = .idle ∧ t.deviceAddress = a ∧ t.outputPower = p ∧ t.messageSignature = g := by
  cases h with
  | init a p g l hf he => exact .inr ⟨a, p, g, rfl, he, rfl, rfl, rfl⟩
  | poll l _ _ h =>
    obtain ⟨h1, h2, h3, -⟩ := (by simpa only [State.settled, Prod.mk.injEq] using h.settled : _ ∧ _ ∧ _ ∧ _ ∧ _)
    exact .inl (by rw [h1, h2, h3]; rfl)
  | getMessage l =>
    rw [unlinkPage_frame]
    exact .inl rfl
  | _ => exact .inl rfl

/-- Settles O19: between resets the identity is written where INIT is accepted, and there only. -/
theorem onlyInitWritesTheIdentity : Obligations.OnlyInitWritesTheIdentity := by
  intro s t hctl hreset hstep hne
  cases Steps.of_step hstep with
  | reset hr => simp [hreset] at hr
  | stay => exact absurd rfl hne
  | action ht h =>
    have hsettled := h.settled (hctl.acts _ (by simp [ht]))
    simp only [State.settled, Prod.mk.injEq] at hsettled
    obtain ⟨h1, h2, h3, -⟩ := hsettled
    exact absurd (by rw [h1, h2, h3]) hne
  | command ht _ hp hd h =>
    rcases h.identity with heq | ⟨a, p, g, rfl, he, h1, h2, h3⟩
    · exact absurd heq hne
    · exact ⟨_, _, a, p, g, ht, hp, hd, he, h1, h2, h3⟩
  | reserved => exact absurd rfl hne

/-- Settles O49: inside a command only actions are performed, and none of them writes the frame being sent. -/
theorem transmitBufferIsStableWithinACommand : Obligations.TransmitBufferIsStableWithinACommand := by
  intro s t hctl hreset htodo hstep
  cases Steps.of_step hstep with
  | reset hr => simp [hreset] at hr
  | stay => exact ⟨rfl, rfl⟩
  | action ht h =>
    have hsettled := h.settled (hctl.acts _ (by simp [ht]))
    simp only [State.settled, Prod.mk.injEq] at hsettled
    obtain ⟨-, -, -, hbuf, hlen⟩ := hsettled
    exact ⟨hbuf, hlen⟩
  | command ht | reserved _ ht => exact absurd ht htodo

/-! ## Acceptances and responses -/

/-- How many more acceptances than responses a history holds. -/
def pending (h : List Event) : Int := (h.map Event.tally).sum

@[simp] theorem pending_nil : pending [] = 0 := rfl
@[simp] theorem pending_cons (e : Event) (h : List Event) : pending (e :: h) = e.tally + pending h := by simp [pending]
@[simp] theorem pending_append (g h : List Event) : pending (g ++ h) = pending g + pending h := by simp [pending]

theorem pending_eq_zero {g : List Event} (h : ∀ e ∈ g, e.tally = 0) : pending g = 0 :=
  List.sum_eq_zero fun _ hx => by
    obtain ⟨e, he, rfl⟩ := List.mem_map.mp hx
    exact h e he

/-- What `HistoryBalanced` counts: an acceptance. -/
def Event.isAccepted : Event → Bool
  | .accepted _ => true
  | _ => false

/-- What `HistoryBalanced` counts: a response. -/
def Event.isResponse : Event → Bool
  | .response _ => true
  | _ => false

theorem pending_eq_countP (h : List Event) : pending h = (h.countP Event.isAccepted : Int) - h.countP Event.isResponse := by
  induction h with
  | nil => rfl
  | cons e h ih =>
    rw [pending_cons, ih, List.countP_cons, List.countP_cons]
    cases e <;> simp [Event.tally, Event.isAccepted, Event.isResponse] <;> omega

/-- The acceptances without a response, less the one of the command in progress. -/
def State.owed (s : State) : Int := pending s.hist - if s.busy then 1 else 0

theorem historyBalanced_iff {s : State} : HistoryBalanced s ↔ s.owed = 0 := by
  have h : HistoryBalanced s ↔
      s.hist.countP Event.isAccepted = s.hist.countP Event.isResponse + (if s.busy then 1 else 0) := Iff.rfl
  rw [h, State.owed, pending_eq_countP]
  split <;> omega

/-- A response ends the command that is owed it. -/
theorem owed_respond {s : State} (hb : s.busy = true) (r : Rsp) : (respond s r).owed = s.owed := by
  simp [State.owed, hb, Event.tally]
  omega

theorem owed_accept {s : State} (hb : s.busy = false) (l : Latches) (data : Memory) :
    (accept s l data).owed = s.owed := by
  simp [State.owed, hb, Event.tally]

/-- Other events leave the balance as it is. -/
theorem owed_of_hist {s t : State} {g : List Event} (hb : t.busy = s.busy) (hh : t.hist = s.hist ++ g)
    (hg : ∀ e ∈ g, e.tally = 0) : t.owed = s.owed := by
  simp [State.owed, hb, hh, pending_eq_zero hg]

theorem Ends.owed {s t : State} {c : Caller} (h : Ends s c t) (hb : s.busy = true) : t.owed = s.owed := by
  cases h with
  | polled r => exact owed_respond (s := s.enter .receiving) hb r
  | posted n g r hg => exact (owed_respond (by exact hb) r).trans (owed_of_hist rfl rfl hg)
  | retry => rfl

theorem Cycles.owed {s t : State} {c : Caller} (h : Cycles s c t) (hb : s.busy = true) : t.owed = s.owed := by
  have hsample (v : Bool) : ∀ e ∈ [Event.lineSample v], e.tally = 0 := by simp [Event.tally]
  cases h with
  | high env tick v => exact owed_of_hist rfl rfl (hsample v)
  | low env tick v h => exact (h.owed hb).trans (owed_of_hist rfl rfl (hsample v))

/-- Frames and transactions neither accept nor respond. -/
theorem Runs.owed_of_not_cmd {s t : State} {i : Instr} (h : Runs s i t) (hi : i.format ≠ .cmd) : t.owed = s.owed := by
  cases h with
  | radio _ b B env tick e he => exact owed_of_hist rfl rfl (g := [e]) (by simpa using he)
  | discard _ tok => exact owed_of_hist rfl rfl (g := [.raised (.tokenMismatch tok)]) (by simp [Event.tally])
  | mark | quiet | reply => rfl
  | refuse hf | diagnose hf => exact absurd hf hi
  | init | poll | getMessage | post => exact absurd rfl hi

/-- A command is accepted once, and answered at most once where it is accepted. -/
theorem Runs.owed_of_cmd {s t : State} {i : Instr} (h : Runs s i t) (hi : i.format = .cmd) (hb : s.busy = false) :
    t.owed = s.owed := by
  cases h with
  | refuse _ l bs _ g hg r =>
    have hlogged := (owed_respond rfl r).trans
      (owed_of_hist (s := accept s l (Memory.store [] 0 bs)) (t := { accept s l (Memory.store [] 0 bs) with
        hist := s.hist ++ [.accepted l.opCode] ++ g }) rfl rfl hg)
    exact hlogged.trans (owed_accept hb l _)
  | init _ _ _ l => exact owed_accept hb l []
  | diagnose _ l => exact owed_accept hb l []
  | poll l _ _ h => exact (h.owed rfl).trans (owed_accept hb l _)
  | getMessage l =>
    rw [unlinkPage_frame]
    exact (owed_respond (by rfl) _).trans (owed_accept hb l [])
  | post _ _ _ _ _ l bs => exact owed_accept hb l (Memory.store [] 0 bs)
  | radio hf | discard hf | mark hf | quiet hf | reply hf => cases hi.symm.trans hf

/-- An action of the command in progress keeps the balance: with the response the command is no more in progress. -/
theorem Performs.owed {s t : State} {a : Act} (h : Performs s a t) (hok : a.ok s.cfg) (hb : s.busy = true) :
    t.owed = s.owed := by
  cases h with
  | issue h => exact h.owed_of_not_cmd (by simp [hok.1])
  | frame _ hi _ h => exact h.owed_of_not_cmd (by simp [hi])
  | pollCycle h => exact h.owed hb
  | endCycle h => exact h.owed hb
  | timeout p n =>
    have hraised : ∀ e ∈ [Event.raised (.radioTimeout p)], e.tally = 0 := by simp [Event.tally]
    exact (owed_respond (by exact hb) _).trans (owed_of_hist rfl rfl hraised)
  | respondValue => exact owed_respond hb _
  | initDone r => exact owed_respond (s := s.enter .receiving) hb r
  | broadcast _ r => exact owed_respond (s := s.enter .receiving) hb r
  | configure | overflow | malformed | drop | wait => exact owed_of_hist rfl rfl (by simp [Event.tally])
  | enqueue h =>
    rw [push_frame h]
    rfl
  | spin | seen | noBytes | bytes | storeBurst | splitEnd | advance | receiving | unicast => rfl

/-- Settles O13: a response is made where a command ends, and an acceptance where the port is idle; a reset clears both. -/
theorem oneResponsePerAcceptedCommand : Obligations.OneResponsePerAcceptedCommand := by
  intro s t hgood hbal hstep
  rw [historyBalanced_iff] at hbal ⊢
  cases Steps.of_step hstep with
  | reset => rfl
  | stay => exact hbal
  | action hs h =>
    have hb : s.busy = true := by simp [hgood.control.busy, hs]
    exact (h.owed (hgood.control.acts _ (by simp [hs])) hb).trans hbal
  | command _ hb _ hd h => exact (h.owed_of_cmd (decodeCmd_format hd).1 hb).trans hbal
  | reserved op _ hb => exact ((Runs.of_reserved (i := .poll) _ op rfl).owed_of_cmd rfl hb).trans hbal

end Sys2Proof.Machine
end

section
/-! The reset table (R50), what a step runs (R45, R47, R164), the status outputs (R46), and writes (R29). -/

namespace Sys2Proof.Machine

/-- Settles O1: the reset state gives each of these values. -/
theorem resetLeavesTheTableValues : Obligations.ResetLeavesTheTableValues := by
  have hfree : ∀ p < 20, State.reset.occupied[p]? = some false := by decide
  exact ⟨rfl, rfl, rfl, rfl, rfl, rfl, rfl, rfl, rfl, rfl, rfl, rfl, rfl, rfl, rfl, hfree, rfl, rfl, rfl, rfl, rfl⟩

/-! ## The fetch points of a step -/

/-- A record at the port of an idle block (R45). -/
theorem step_record {s : State} {record : Bytes} {others : List Bytes} {i : Instr} (hr : s.resetPin = false)
    (ht : s.todo = []) (hb : s.busy = false) (hp : s.cmdPort = record :: others) (hd : decodeCmd s.cfg record = .ok i) :
    step s = exec i { s with cmdPort := others } := by
  simp [step, hr, ht, idleStep, hb, hp, acceptRecord, hd]

/-- A frame at the burst cursor (R164, R167). -/
theorem step_frame {s : State} {i : Instr} {n : Nat} {rest : List Act} (hr : s.resetPin = false)
    (ht : s.todo = .split :: rest) (hrem : 0 < s.rxRem) (hd : decodeOne s s.rxOff s.rxRem = .ok (.frame i, n)) :
    step s = exec i { s with todo := .advance n :: .split :: rest } := by
  have hd' : decodeOne { s with todo := rest } s.rxOff s.rxRem = .ok (.frame i, n) := by
    rw [← hd]
    simp only [decodeOne, memRead_congr (s := s) (t := { s with todo := rest }) (sp := .rx) rfl rfl]
  rw [step_action hr ht rfl]
  simp only [perform, splitStep, Int.not_le.mpr hrem, if_false, hd']
  rfl

/-- A transaction that the radio completes (R47). -/
theorem step_transaction {s : State} {i : Instr} {rest : List Act} (hr : s.resetPin = false)
    (ht : s.todo = .issue i :: rest) (hc : s.env.completions ≠ some 0) :
    step s = exec i (countCompletion { s with todo := rest }) := by
  rw [step_todo hr ht]
  simp [goOn, radioResponds, hc, perform]

/-- Settles O11, by the three places where a step fetches an instruction. -/
theorem stepRunsTheDecodedInstruction : Obligations.StepRunsTheDecodedInstruction :=
  ⟨fun _ _ _ _ hr ht hb hp hd => step_record hr ht hb hp hd, fun _ _ _ _ hr ht hrem hd => step_frame hr ht hrem hd,
    fun _ _ _ hr ht hc => step_transaction hr ht hc⟩

/-! ## The status outputs -/

theorem qFull_iff (s : State) : s.qFull = true ↔ s.count = 20 := by simp [State.qFull]

theorem qEmpty_iff (s : State) : s.qEmpty = true ↔ s.count = 0 := by simp [State.qEmpty]

theorem Ring.count_le {s : State} {ring : List Nat} (h : Ring s ring) : s.count ≤ 20 := h.count.trans_le h.length_le

theorem Ring.count_eq_length {s : State} {ring : List Nat} (h : Ring s ring) :
    s.count = (Machine.queueContents s).length := by
  rw [h.queueContents, List.length_map, h.count]

/-- Settles O60: the outputs of the queue are read off its ring, the others off their registers. -/
theorem statusOutputsShowTheState : Obligations.StatusOutputsShowTheState := by
  rintro s ⟨ring, h⟩
  have hle := h.count_le
  have hlength := h.count_eq_length
  have hcount : s.qCount.toNat = s.count := by
    simp only [State.qCount, BitVec.toNat_ofNat]
    omega
  have hfull : s.qFull = true ↔ freePage s = none := by
    rw [qFull_iff, h.freePage_eq_none, ← h.length_eq_iff, h.count]
    rfl
  have hempty : s.qEmpty = true ↔ queueContents s = [] := by
    rw [qEmpty_iff, hlength, List.length_eq_zero_iff]
  have hcode (e : EngState) (he : s.engState = e) : s.engStateOut = e.code := congrArg EngState.code he
  exact ⟨⟨hcount, hlength, hle⟩, qFull_iff s, hfull, hempty, hcode _, hcode _, hcode _, hcode _, rfl,
    by simp [State.cmdReady], rfl⟩

/-! ## Writes -/

/-- Settles O51, from what every byte of every space reads after a write. -/
theorem writesDoNotAlias : Obligations.WritesDoNotAlias := by
  intro s t sp a bs h
  have hread := readByte_memWrite h
  refine ⟨fun sp' x hsp => ?_, fun x hx => ?_, fun k hk => ?_, ?_⟩
  · rw [hread, if_neg fun hc => hsp hc.1]
  · rw [hread, if_neg (by omega)]
  · rw [hread, if_pos ⟨rfl, by omega, by omega⟩]
    simp [hk]
  · obtain ⟨-, rfl⟩ := memWrite_eq_ok.mp h
    rw [State.memory_setMemory_same]

end Sys2Proof.Machine
end

section
/-! What every step keeps of the memories (R60, R65), when the receive buffer changes (R26, R76), and that no access of a good
state leaves its space or reads a byte without a value (R50, R65). -/

namespace Sys2Proof.Machine

/-! ## The canonical form -/

theorem MemoryOk.assertReset (s : State) : MemoryOk (assertReset s) := by
  intro sp
  cases sp <;> exact ⟨rfl, fun _ hc => nomatch hc⟩

/-- Settles O56: reset empties every memory, and each action and each acceptance writes inside the bounds. -/
theorem stepKeepsMemoryCanonical : Obligations.StepKeepsMemoryCanonical := by
  intro s t hs hstep
  cases Steps.of_step hstep with
  | reset => exact MemoryOk.assertReset s
  | stay => exact hs
  | action _ h => exact h.memoryOk hs
  | command _ _ _ _ h => exact h.memoryOk hs
  | reserved op => exact (Runs.of_reserved (i := .poll) _ op rfl).memoryOk hs

/-! ## The receive buffer -/

theorem Ends.rxBuf {s t : State} {c : Caller} (h : Ends s c t) : t.rxBuf = s.rxBuf := by
  cases h <;> rfl

theorem Cycles.rxBuf {s t : State} {c : Caller} (h : Cycles s c t) : t.rxBuf = s.rxBuf := by
  cases h with
  | high => rfl
  | low _ _ _ h => exact (h.rxBuf :)

theorem Runs.rxBuf {s t : State} {i : Instr} (h : Runs s i t) : t.rxBuf = s.rxBuf := by
  cases h with
  | poll l _ _ h => exact (h.rxBuf :)
  | getMessage l =>
    rw [unlinkPage_frame]
    rfl
  | _ => rfl

/-- Of the actions only the storing of a burst writes the receive buffer (R26). -/
theorem Performs.rxBuf {s t : State} {a : Act} (h : Performs s a t) (ha : a ≠ .storeBurst) : t.rxBuf = s.rxBuf := by
  cases h with
  | storeBurst => exact absurd rfl ha
  | issue h => exact (h.rxBuf :)
  | pollCycle h => exact h.rxBuf
  | endCycle h => exact h.rxBuf
  | frame _ _ _ h => exact (h.rxBuf :)
  | enqueue h => rw [push_frame h]
  | _ => rfl

/-- Settles O55: neither an acceptance nor any action but the storing of a burst writes the receive buffer. -/
theorem receiveBufferIsStableWhileSplit : Obligations.ReceiveBufferIsStableWhileSplit := by
  intro s t _ hreset hstep hne
  cases Steps.of_step hstep with
  | reset hr => simp [hreset] at hr
  | stay => exact absurd rfl hne
  | @action a rest _ ht h =>
    have ha : a = .storeBurst := by
      by_contra ha
      exact hne (h.rxBuf ha)
    exact ⟨rest, ha ▸ ht⟩
  | command _ _ _ _ h => exact absurd h.rxBuf hne
  | reserved => exact absurd rfl hne

/-! ## Reads and writes that succeed -/

/-- The bytes of the frame being sent have values (R27). -/
theorem BuffersOk.memRead_tx {s : State} (h : BuffersOk s) : ∃ B, memRead s .tx 0 s.txLen = .ok B :=
  memRead_ok_of_isSome fun k hk => by simpa using h.2.2 k hk

/-- The bytes received have values (R26). -/
theorem BuffersOk.memRead_rx {s : State} (h : BuffersOk s) {o n : Nat} (hle : o + n ≤ s.rxLen) :
    ∃ F, memRead s .rx o n = .ok F :=
  memRead_ok_of_isSome fun k hk => h.1.2 (o + k) (by omega)

/-- DecodeOne reads received bytes only: the length byte, and the frame after it has been found to fit (R164, R165). -/
theorem decodeOne_ok {s : State} (h : BuffersOk s) {o : Nat} {rem : Int} (hpos : 0 < rem) (hle : o + rem ≤ s.rxLen) :
    ∃ r, decodeOne s o rem = .ok r := by
  obtain ⟨bs, hbs⟩ := h.memRead_rx (o := o) (n := 1) (by omega)
  simp only [decodeOne, hbs]
  split
  · exact ⟨_, rfl⟩
  split
  · exact ⟨_, rfl⟩
  · next hfits =>
    obtain ⟨F, hF⟩ := h.memRead_rx (o := o) (n := (bs.getD 0 0).toNat + 1) (by omega)
    simp only [hF]
    split <;> exact ⟨_, rfl⟩

/-- Push writes a whole page into a page that exists (R60, R241). -/
theorem QueueOk.push_ok {s : State} (h : QueueOk s) {P : Bytes} (hP : P.length = pageBytes) :
    ∃ r, Machine.push s P = .ok r := by
  obtain ⟨ring, hring⟩ := h
  simp only [Machine.push]
  split
  · exact ⟨_, rfl⟩
  split
  · exact ⟨_, rfl⟩
  · next p hp =>
    have hlt : p < queuePages := (hring.freePage_not_mem hp).1
    have hw := memWrite_ok (s := s) (sp := .page p) (a := 0) (bs := P) (by simp [Space.size, hlt, hP])
    simp only [hw]
    exact ⟨_, rfl⟩

/-- Pull reads the oldest page, which is occupied and so has been written (R44, R242). -/
theorem QueueOk.pull_ok {s : State} (h : QueueOk s) : ∃ r, pull s = .ok r := by
  obtain ⟨ring, hring⟩ := h
  simp only [pull]
  split
  · exact ⟨_, rfl⟩
  · next hc =>
    obtain ⟨p, ring, rfl, hhead⟩ := hring.head_of_count hc
    obtain ⟨P, hP, -⟩ := hring.full p List.mem_cons_self
    simp only [hhead, Option.getD_some, hP]
    exact ⟨_, rfl⟩

/-- The frame is built from data bytes that the acceptance has latched (R25, R184). -/
theorem buildFrame_ok {s : State} (hn : s.latch.opDataLen.toNat ≤ 32)
    (hdata : ∀ a < s.latch.opDataLen.toNat, (readByte s .opData a).isSome) : ∃ u, buildFrame s = .ok u := by
  obtain ⟨data, hd⟩ := memRead_ok_of_isSome (s := s) (sp := .opData) (a := 0) fun k hk => by simpa using hdata k hk
  have hF := postFrame_length (memRead_length hd)
  have hw := memWrite_ok (s := s) (sp := .tx) (a := 0) (bs := postFrame s data)
    (by rw [hF]; simp only [Space.size, frameMaxBytes]; omega)
  simp only [buildFrame, hd, hw]
  exact ⟨_, rfl⟩

theorem readByte_acceptPost_isSome (s : State) (r m n : Byte) (d : Bytes) (k : Nat) {a : Nat}
    (ha : a < (d.take dataMax).length) : (readByte (acceptPost s r m n d k) .opData a).isSome :=
  readByte_isSome_of_store (s := { acceptPost s r m n d k with opData := [] }) (sp := .opData)
    (List.length_take_le ..) ha

/-! ## The phases of a command -/

theorem startAttempt_ne_fault {s : State} {B : Bytes} (hB : memRead s .tx 0 s.txLen = .ok B) (f : Fault) :
    startAttempt s ≠ .fault f := by
  simp [startAttempt, hB]

theorem ackTest_ne_fault {s : State} (h : BuffersOk s) (f : Fault) : ackTest s ≠ .fault f := by
  simp only [ackTest]
  split
  · simp
  split
  · simp
  · have hb : BuffersOk { s with attempt := s.attempt + 1 } := h
    obtain ⟨B, hB⟩ := hb.memRead_tx
    exact startAttempt_ne_fault hB f

theorem endCycle_ne_fault {s : State} (h : BuffersOk s) (c : Caller) (ovf : Bool) (f : Fault) :
    endCycle s c ovf ≠ .fault f := by
  cases c with
  | poll => cases ovf <;> simp [endCycle]
  | post => exact ackTest_ne_fault (s := s.enter .receiving) h f

theorem pollCycle_ne_fault {s : State} (h : BuffersOk s) (c : Caller) (f : Fault) : pollCycle s c ≠ .fault f := by
  obtain ⟨v, u, hu, eq⟩ := sampleLine_eq s
  have hb : BuffersOk u := by
    rw [eq]
    exact h
  simp only [pollCycle, hu]
  split
  · simp
  · exact endCycle_ne_fault hb c false f

/-! ## The instructions -/

theorem exec_radio_ne_fault {s : State} {i : Instr} (hi : i.format = .radio) (f : Fault) : exec i s ≠ .fault f := by
  obtain ⟨t, -, ht, -⟩ := exec_radio (s := s) hi
  simp [ht]

theorem processFrame_ne_fault (s : State) (isMsg : Bool) (r sd : Byte) (tok : Half) (page : Bytes) (f : Fault) :
    processFrame s isMsg r sd tok page ≠ .fault f := by
  obtain ⟨t, ht, -⟩ := processFrame_eq s isMsg r sd tok page
  simp [ht]

theorem exec_frame_ne_fault {s : State} {i : Instr} (hi : i.format = .frame) (f : Fault) : exec i s ≠ .fault f := by
  cases i with
  | frameAck r sd tok => exact processFrame_ne_fault s false r sd tok _ f
  | frameMsg r sd tok => exact processFrame_ne_fault s true r sd tok _ f
  | _ => cases hi

theorem execInit_ne_fault (s : State) (a p : Byte) (g : Half) (f : Fault) : exec (.init a p g) s ≠ .fault f := by
  rcases execInit_cases a p g s with ⟨code, eq⟩ | ⟨e, code, eq⟩ | ⟨-, -, -, -, -, eq⟩ <;> simp [eq]

theorem execPoll_ne_fault {s : State} (h : BuffersOk s) (f : Fault) : exec .poll s ≠ .fault f := by
  rcases execPoll_cases s with ⟨code, eq⟩ | ⟨-, -, eq⟩ <;> rw [eq]
  · simp
  · exact pollCycle_ne_fault (s := acceptBare s opPoll) h .poll f

theorem execGetMessage_ne_fault {s : State} (h : QueueOk s) (f : Fault) : exec .getMessage s ≠ .fault f := by
  have hq : QueueOk (acceptBare s opGetMessage) := h.congr rfl rfl rfl rfl rfl rfl rfl
  obtain ⟨⟨P, u⟩, hpull⟩ := hq.pull_ok
  simp only [exec, execGetMessage, hpull]
  split
  · simp
  · cases P <;> simp

theorem execPostMessage_ne_fault (s : State) (r m n : Byte) {d : Bytes} (k : Nat) (hd : d.length = 32) (f : Fault) :
    exec (.postMessage r m n d k) s ≠ .fault f := by
  simp only [exec, execPostMessage]
  split
  · simp
  split
  · simp
  · next hn =>
    have hn : n.toNat ≤ 32 := Nat.not_lt.mp hn
    obtain ⟨u, hu⟩ := buildFrame_ok (s := acceptPost s r m n d k) hn fun a ha =>
      readByte_acceptPost_isSome s r m n d k (by
        have ha : a < n.toNat := ha
        simp only [List.length_take, hd, dataMax]
        omega)
    obtain ⟨F, -, hF, -⟩ := buildFrame_reads_back hn hu
    simp only [hu]
    exact startAttempt_ne_fault hF f

/-- A command decoded from a record reads and writes where it may (R101). -/
theorem exec_record_ne_fault {s : State} {c : Config} {record : Bytes} {i : Instr} (hb : BuffersOk s) (hq : QueueOk s)
    (hd : decodeCmd c record = .ok i) (f : Fault) : exec i s ≠ .fault f := by
  obtain ⟨hi, hpost⟩ := decodeCmd_format hd
  cases i with
  | init a p g => exact execInit_ne_fault s a p g f
  | poll => exact execPoll_ne_fault hb f
  | getMessage => exact execGetMessage_ne_fault hq f
  | postMessage r m n d k => exact execPostMessage_ne_fault s r m n k (hpost r m n d k rfl) f
  | getVersion | getPartNumber => exact nofun
  | _ => cases hi

/-! ## The step -/

theorem storeBurst_ne_fault {s : State} (h : s.rdBurst.length ≤ s.cfg.fifoCap) (f : Fault) : storeBurst s ≠ .fault f := by
  have hw := memWrite_ok (s := s) (sp := .rx) (a := 0) (bs := s.rdBurst) (by simpa [Space.size] using h)
  simp [storeBurst, hw]

theorem splitStep_ne_fault {s : State} (hb : BuffersOk s) (hc : CursorOk s) (f : Fault) : splitStep s ≠ .fault f := by
  simp only [splitStep]
  split
  · simp
  · next hrem =>
    obtain ⟨⟨found, n⟩, hr⟩ := decodeOne_ok hb (Int.not_le.mp hrem) (le_of_eq hc)
    simp only [hr]
    cases found with
    | malformed w => simp
    | frame i => exact exec_frame_ne_fault (decodeOne_frame hr).1 f

theorem enqueue_ne_fault {s : State} (h : QueueOk s) {page : Bytes} (hP : page.length = pageBytes) (sd : Byte)
    (f : Fault) : enqueue s page sd ≠ .fault f := by
  obtain ⟨⟨b, u⟩, hpush⟩ := h.push_ok hP
  simp only [enqueue, hpush]
  cases b <;> simp

theorem perform_ne_fault {s : State} {a : Act} (hok : a.ok s.cfg) (hb : BuffersOk s) (hc : CursorOk s) (hq : QueueOk s)
    (hburst : a = .storeBurst → s.rdBurst.length ≤ s.cfg.fifoCap) (f : Fault) : perform a s ≠ .fault f := by
  cases a with
  | issue i => exact exec_radio_ne_fault hok.1 f
  | pollCycle c => exact pollCycle_ne_fault hb c f
  | storeBurst => exact storeBurst_ne_fault (hburst rfl) f
  | split => exact splitStep_ne_fault hb hc f
  | enqueue page sd => exact enqueue_ne_fault hq hok.1 sd f
  | endCycle c ovf => exact endCycle_ne_fault hb c ovf f
  | configure | confirm | test | respondValue | rxCount | advance | receiving | initDone | afterTransmit | wait =>
    exact nofun

/-- A burst about to be stored fits the receive buffer (R133, R211). -/
theorem ControlOk.burst_fits {s : State} (h : ControlOk s) {rest : List Act} (ht : s.todo = .storeBurst :: rest) :
    s.rdBurst.length ≤ s.cfg.fifoCap := by
  rcases h.burst (by simp [ht]) with ⟨cmd, n, rest', eq, -⟩ | ⟨rest', -, -, hle⟩
  · cases ht.symm.trans eq
  · exact hle

theorem Good.goOn_ne_fault {s : State} {a : Act} {rest : List Act} (h : Good s) (ht : s.todo = a :: rest) (f : Fault) :
    goOn a rest s ≠ .fault f := by
  simp only [goOn]
  split
  · simp
  · refine perform_ne_fault (s := { s with todo := rest }) (h.control.acts a (by simp [ht])) h.buffers h.cursor
      (h.queue.congr rfl rfl rfl rfl rfl rfl rfl) ?_ f
    rintro rfl
    exact h.control.burst_fits ht

theorem Good.idleStep_ne_fault {s : State} (h : Good s) (f : Fault) : idleStep s ≠ .fault f := by
  simp only [idleStep]
  split
  · simp
  split
  · simp
  · next record others _ =>
    simp only [acceptRecord]
    split
    · next hd =>
      exact exec_record_ne_fault (s := { s with cmdPort := others }) h.buffers
        (h.queue.congr rfl rfl rfl rfl rfl rfl rfl) hd f
    · simp
    · simp

/-- Settles O59: an action and an acceptance read bytes that the invariants say have values, and write inside a space. -/
theorem goodStatesNeverFault : Obligations.GoodStatesNeverFault := by
  intro s f h
  simp only [step]
  split
  · simp
  split
  · next ht => exact h.goOn_ne_fault ht f
  · exact h.idleStep_ne_fault f

end Sys2Proof.Machine
end

section
/-! The decoder and the encoder are inverse to each other, format by format (30_encoding.md R91, R92, R96, R100 to R104). -/

namespace Sys2Proof

/-! ## Codes -/

/-- A first byte is a record's code byte as soon as it is the code's number (log 7). -/
theorem codeByte_eq_of_toNat {b : Byte} {k : BitVec 3} (h : b.toNat = k.toNat) : codeByte k = b := by
  apply BitVec.eq_of_toNat_eq
  rw [codeByte, BitVec.toNat_setWidth_of_le (by omega), h]

/-! ## Frames -/

/-- A byte string is a frame when its length byte counts the bytes after it and its fields pass R165. -/
theorem decodeFrame_eq_ok {c : Config} {F : Bytes} {i : Instr} :
    decodeFrame c F = .ok i ↔ F.length = (F.getD 0 0).toNat + 1 ∧ 5 ≤ (F.getD 0 0).toNat ∧ parseFrame c F = .ok i := by
  cases F with
  | nil => simp [decodeFrame]
  | cons L rest =>
    simp only [decodeFrame, List.getD_cons_zero, List.length_cons]
    split
    · exact iff_of_false nofun (by omega)
    split
    · exact iff_of_false nofun (by omega)
    split
    · exact iff_of_false nofun (by omega)
    · next h5 hle hge =>
      rw [and_iff_right (by omega), and_iff_right (by omega)]
      cases parseFrame c (L :: rest) <;> simp

theorem decodeFrame_encode {c : Config} {i : Instr} (hc : c.ptAck ≠ c.ptMsg) (hf : i.format = .frame)
    (hw : i.wf c = true) : decodeFrame c (encode c i) = .ok i := by
  obtain ⟨L, rest, he, hL, h5, -⟩ := encode_frame_length hf hw
  refine decodeFrame_eq_ok.mpr ⟨?_, ?_, parseFrame_encode hc hf hw⟩
  · simp [he, hL]
  · simpa [he, hL] using h5

theorem encode_decodeFrame {c : Config} {F : Bytes} {i : Instr} (h : decodeFrame c F = .ok i) :
    i.format = .frame ∧ i.wf c = true ∧ encode c i = F := by
  obtain ⟨hlen, h5, hp⟩ := decodeFrame_eq_ok.mp h
  exact encode_parseFrame hlen h5 hp

/-! ## Command records -/

theorem postMessage_wf {c : Config} {r m n : Byte} {data : Bytes} {k : Nat} :
    (Instr.postMessage r m n data k).wf c = true ↔ data.length = dataMax ∧ k < 2 ^ c.maxRetriesBits := by
  simp [Instr.wf]

/-- The operands of POST_MESSAGE are the data and then the bytes of a retry bound in its range (R101). -/
theorem decodePost_eq_ok {c : Config} {r m n : Byte} {rest : Bytes} {i : Instr} :
    decodePost c r m n rest = .ok i ↔ ∃ data k, i = .postMessage r m n data k ∧ i.wf c = true ∧
      rest = data ++ leBytes (retryBytes c) k := by
  constructor
  · intro h
    simp only [decodePost] at h
    split at h
    · cases h
    · next hlen =>
      split at h
      · next hk =>
        cases h
        have hdrop : (rest.drop dataMax).length = retryBytes c := by rw [List.length_drop]; omega
        refine ⟨_, _, rfl, postMessage_wf.mpr ⟨?_, hk⟩, ?_⟩
        · rw [List.length_take]; omega
        · rw [← hdrop, leBytes_leNat, List.take_append_drop]
      · cases h
  · rintro ⟨data, k, rfl, hw, rfl⟩
    obtain ⟨hd, hk⟩ := postMessage_wf.mp hw
    simp [decodePost, ← hd, leNat_leBytes (lt_of_retries hk), hk]

theorem decodeCmd_encode {c : Config} {i : Instr} (hf : i.format = .cmd) (hw : i.wf c = true) :
    decodeCmd c (encode c i) = .ok i := by
  cases i with
  | init a p g => exact congrArg (fun g => Except.ok (Instr.init a p g)) (Half.mk_hi_lo g)
  | poll | getMessage | getVersion | getPartNumber => rfl
  | postMessage r m n data k => exact decodePost_eq_ok.mpr ⟨data, k, rfl, hw, rfl⟩
  | frameAck | frameMsg | readReg | writeReg | readBurst | writeBurst | strobe => cases hf

/-- Six arms of the decoder answer an instruction: INIT and POST_MESSAGE with operands, the other four by the code alone. -/
theorem encode_decodeCmd {c : Config} {bs : Bytes} {i : Instr} (h : decodeCmd c bs = .ok i) :
    i.format = .cmd ∧ i.wf c = true ∧ encode c i = bs := by
  cases bs with
  | nil => cases h
  | cons b ops =>
    simp only [decodeCmd] at h
    split at h
    case h_1 hb =>
      cases h
      exact ⟨rfl, rfl, by rw [encode, Half.lo_mk, Half.hi_mk, codeByte_eq_of_toNat hb]⟩
    case h_7 r m n rest hb =>
      obtain ⟨data, k, rfl, hw, rfl⟩ := decodePost_eq_ok.mp h
      exact ⟨rfl, hw, by rw [encode, codeByte_eq_of_toNat hb]⟩
    case h_3 hb | h_5 hb | h_9 hb | h_11 hb =>
      cases h
      exact ⟨rfl, rfl, by rw [encode, codeByte_eq_of_toNat hb]⟩
    all_goals cases h

/-! ## Radio-port transaction records -/

theorem decodeReadBurst_eq_ok {c : Config} {cmd len : Byte} {i : Instr} :
    decodeReadBurst c cmd len = .ok i ↔ i = .readBurst cmd len.toNat ∧ i.wf c = true := by
  simp only [decodeReadBurst]
  split
  · next hw => exact ⟨by rintro ⟨⟩; exact ⟨rfl, hw⟩, by rintro ⟨rfl, -⟩; rfl⟩
  · next hw => exact ⟨nofun, by rintro ⟨rfl, hw'⟩; exact absurd hw' hw⟩

theorem decodeWriteBurst_eq_ok {c : Config} {cmd : Byte} {B : Bytes} {i : Instr} :
    decodeWriteBurst c cmd B = .ok i ↔ i = .writeBurst cmd B ∧ i.wf c = true := by
  simp only [decodeWriteBurst]
  split
  · next hw => exact ⟨by rintro ⟨⟩; exact ⟨rfl, hw⟩, by rintro ⟨rfl, -⟩; rfl⟩
  · next hw => exact ⟨nofun, by rintro ⟨rfl, hw'⟩; exact absurd hw' hw⟩

/-- The count of a READ_BURST fits the record's byte (R133, log 8). -/
theorem toNat_ofNat_readBurst {c : Config} {cmd : Byte} {n : Nat} (hw : (Instr.readBurst cmd n).wf c = true) :
    (BitVec.ofNat 8 n).toNat = n := by
  have hn : n < 256 := of_decide_eq_true (Bool.and_eq_true_iff.mp hw).2
  rw [BitVec.toNat_ofNat, Nat.mod_eq_of_lt hn]

theorem decodeRadio_encode {c : Config} {i : Instr} (hf : i.format = .radio) (hw : i.wf c = true) :
    decodeRadio c (encode c i) = .ok i := by
  cases i with
  | readReg | writeReg | strobe => rfl
  | readBurst cmd n => exact decodeReadBurst_eq_ok.mpr ⟨by rw [toNat_ofNat_readBurst hw], hw⟩
  | writeBurst cmd B => exact decodeWriteBurst_eq_ok.mpr ⟨rfl, hw⟩
  | frameAck | frameMsg | init | poll | getMessage | postMessage | getVersion | getPartNumber => cases hf

/-- Five arms of the decoder answer an instruction: the two bursts if they are well-formed, the other three always. -/
theorem encode_decodeRadio {c : Config} {bs : Bytes} {i : Instr} (h : decodeRadio c bs = .ok i) :
    i.format = .radio ∧ i.wf c = true ∧ encode c i = bs := by
  cases bs with
  | nil => cases h
  | cons b ops =>
    simp only [decodeRadio] at h
    split at h
    case h_5 cmd len hb =>
      obtain ⟨rfl, hw⟩ := decodeReadBurst_eq_ok.mp h
      exact ⟨rfl, hw, by rw [encode, BitVec.ofNat_toNat, BitVec.setWidth_eq, codeByte_eq_of_toNat hb]⟩
    case h_7 cmd B hb =>
      obtain ⟨rfl, hw⟩ := decodeWriteBurst_eq_ok.mp h
      exact ⟨rfl, hw, by rw [encode, codeByte_eq_of_toNat hb]⟩
    case h_1 hb | h_3 hb | h_9 hb =>
      cases h
      exact ⟨rfl, rfl, by rw [encode, codeByte_eq_of_toNat hb]⟩
    all_goals cases h

/-! ## All formats -/

/-- Settles O3, format by format; only frames need the two type codes to be distinct. Record layouts are the model's
(log 7, log 8). -/
theorem decodeOfEncode : Obligations.DecodeOfEncode := by
  intro c i hc hw
  cases hf : i.format with
  | frame => exact decodeFrame_encode hc hf hw
  | cmd => exact decodeCmd_encode hf hw
  | radio => exact decodeRadio_encode hf hw

/-- Settles O4, format by format, from what each decoder accepts. Record layouts are the model's (log 7, log 8). -/
theorem encodeOfDecode : Obligations.EncodeOfDecode := by
  intro c f bs i h
  cases f with
  | frame => exact encode_decodeFrame h
  | cmd => exact encode_decodeCmd h
  | radio => exact encode_decodeRadio h

/-- Settles O5: a word that is its instruction's encoding decodes to it (O3); where no operand has a layout or a range of its
own, and for the reserved codes, the decoder answers by the code alone. Record layouts are the model's (log 7, log 8). -/
theorem wordsDecodeAsTheTableSays : Obligations.WordsDecodeAsTheTableSays := by
  intro c hack hmsg hle hcap
  have hne : c.ptAck ≠ c.ptMsg := by rw [hack, hmsg]; decide
  have word {i : Instr} {bs : Bytes} (he : encode c i = bs) (hw : i.wf c = true) : decode c i.format bs = .ok i :=
    he ▸ decodeOfEncode c i hne hw
  have hburst : (Instr.readBurst 0xFF 30).wf c = true := by simp [Instr.wf, hcap]
  have htoken : tokenBytes c 0xBEEF = (0xEF, 0xBE) := by rw [tokenBytes, if_pos hle]; rfl
  refine ⟨word (i := .frameAck ..) ?_ rfl, word (i := .frameMsg ..) ?_ rfl, word (i := .init ..) rfl rfl, rfl, rfl, rfl, rfl,
    rfl, rfl, rfl, rfl, word (i := .readBurst ..) rfl hburst⟩
  · rw [encode, encodeAck, htoken, hack]
  · rw [encode, encodeMsg, htoken, hmsg]; rfl

end Sys2Proof
end

section
/-! How much of a burst DecodeOne consumes (30_encoding.md R95; 41_codec.md R164). -/

namespace Sys2Proof.Machine

/-- A read of one byte is the byte there. -/
theorem memRead_one {s : State} {sp : Space} {a : Nat} {bs : Bytes} (h : memRead s sp a 1 = .ok bs) :
    ∃ b, readByte s sp a = some b ∧ bs = [b] := by
  obtain ⟨hlen, hbytes⟩ := memRead_eq_ok.mp h
  obtain ⟨b, rfl⟩ := List.length_eq_one_iff.mp hlen
  exact ⟨b, hbytes 0 Nat.zero_lt_one, rfl⟩

/-- A frame or a malformed one, what DecodeOne consumes is told by the length byte alone (R95). -/
theorem decodeOne_consumed {s : State} {o n : Nat} {rem : Int} {r : Found} (h : decodeOne s o rem = .ok (r, n)) :
    ∃ L, readByte s .rx o = some L ∧ n = L.toNat + 3 := by
  simp only [decodeOne] at h
  split at h
  · cases h
  · next bs hbs =>
    obtain ⟨L, hL, rfl⟩ := memRead_one hbs
    refine ⟨L, hL, ?_⟩
    split at h
    · cases h; rfl
    split at h
    · cases h; rfl
    split at h
    · cases h
    · split at h <;> cases h <;> rfl

/-- Settles O9, from the consumed size and the range of a byte. -/
theorem consumedIsLengthPlusThree : Obligations.ConsumedIsLengthPlusThree := by
  intro s o rem r n h
  obtain ⟨L, hL, rfl⟩ := decodeOne_consumed h
  exact ⟨L, hL, rfl, by omega, by omega⟩

end Sys2Proof.Machine
end

section
/-! What the five transaction kinds answer and leave unchanged (40_radio_port.md R131 to R135, R145). -/

namespace Sys2Proof.Machine

/-- A burst read takes its bytes off the environment's answers (R66, R133). -/
theorem exec_readBurst (s : State) (cmd : Byte) (n : Nat) :
    exec (.readBurst cmd n) s = .next { s with
      rdBurst := burstBytes s.env.fifo s.tick n, env := { s.env with fifo := s.env.fifo.drop n }, tick := s.tick + n
      hist := s.hist ++ [.readBurst cmd n (burstBytes s.env.fifo s.tick n)] } := rfl

theorem exec_writeReg (s : State) (id v : Byte) :
    exec (.writeReg id v) s = .next { s with hist := s.hist ++ [.writeReg id v] } := rfl

theorem exec_writeBurst (s : State) (cmd : Byte) (B : Bytes) :
    exec (.writeBurst cmd B) s = .next { s with hist := s.hist ++ [.writeBurst cmd B] } := rfl

theorem exec_strobe (s : State) (cmd : Byte) : exec (.strobe cmd) s = .next { s with hist := s.hist ++ [.strobe cmd] } := rfl

/-- Settles O22: each of the three appends its event. -/
theorem writesAndStrobesOnlyRecord : Obligations.WritesAndStrobesOnlyRecord :=
  fun s => ⟨exec_writeReg s, exec_writeBurst s, exec_strobe s⟩

/-- Settles O21: a read takes a scripted answer first, and any answer to a burst read has the length asked for.
What an answer is where none is scripted is left open (log 1). -/
theorem readsReturnTheAnswer : Obligations.ReadsReturnTheAnswer := by
  refine ⟨fun s id b more h => exec_readReg h, ?_, ?_, ?_⟩
  · rintro s cmd _ B more rfl hfifo
    refine ⟨_, exec_readBurst s cmd B.length, ?_⟩
    rw [hfifo, burstBytes_append, List.drop_left]
  · intro s id
    obtain ⟨t, hexec, hhist, ht⟩ := exec_readReg_frame s id
    exact ⟨t, t.rdData, hexec, rfl, hhist, ht⟩
  · intro s cmd n
    exact ⟨_, _, exec_readBurst s cmd n, burstBytes_length .., rfl, rfl, rfl⟩

end Sys2Proof.Machine
end

section
/-! Confirm (40_radio_port.md R137): its actions one by one, and how it runs until the awaited state is read (R280). -/

namespace Sys2Proof.Machine

/-! ## Runs, from the step or the run they begin with -/

theorem run_succ_of_step {s t : State} {k : Nat} {r : Result} (h : step s = .next t) (hrun : run k t = r) :
    run (k + 1) s = r := (run_step h k).trans hrun

theorem run_add_of_run {s t : State} {j k : Nat} {r : Result} (h : run j s = .next t) (hrun : run k t = r) :
    run (j + k) s = r := (run_trans h k).trans hrun

/-! ## The actions of Confirm -/

/-- What `spinCount` holds after `k` more unsuccessful reads: without a limit the register does not exist (R37, log 26). -/
def State.spinCountAfter (s : State) (k : Nat) : Nat :=
  if s.cfg.spinLimit.isSome then s.spinCount + k else s.spinCount

@[simp] theorem State.spinCountAfter_zero (s : State) : s.spinCountAfter 0 = s.spinCount := ite_self _

theorem State.spinCountAfter_of_some {s : State} {n : Nat} (h : s.cfg.spinLimit = some n) (k : Nat) :
    s.spinCountAfter k = s.spinCount + k := by simp [State.spinCountAfter, h]

/-- Confirm begins with a read of the state register, the count at zero. -/
theorem step_confirm {s : State} {p : Awaited} {rest : List Act} (hr : s.resetPin = false) (ht : s.todo = .confirm p :: rest) :
    step s = .next { s with
      spinCount := if s.cfg.spinLimit.isSome then 0 else s.spinCount
      todo := .issue (.readReg s.cfg.radio.regMarcstate) :: .test p :: rest } := by
  rw [step_action hr ht rfl]
  simp only [perform, beginConfirm, spinRead]
  split <;> rfl

/-- A register read whose answer is scripted. -/
theorem step_readReg {s : State} {id b : Byte} {more : Bytes} {rest : List Act} (hr : s.resetPin = false)
    (ht : s.todo = .issue (.readReg id) :: rest) (hc : s.radioCompletes) (hregs : s.env.regs = b :: more) :
    step s = .next { s with
      todo := rest, rdData := b, env := { s.env with regs := more }, hist := s.hist ++ [.readReg id b] } :=
  (step_issue hr ht hc).trans (exec_readReg hregs)

theorem step_test_seen {s : State} {p : Awaited} {rest : List Act} (hr : s.resetPin = false) (ht : s.todo = .test p :: rest)
    (hyes : awaitedState s p s.rdData = true) : step s = .next { s with todo := rest } := by
  rw [step_action hr ht rfl]
  exact congrArg Host.Outcome.next (if_pos hyes)

/-- A byte that is not the awaited state is counted and the register is read again, where the count does not reach the
limit. -/
theorem step_test_again {s : State} {p : Awaited} {rest : List Act} (hr : s.resetPin = false) (ht : s.todo = .test p :: rest)
    (hno : awaitedState s p s.rdData = false) (hlimit : s.cfg.spinLimit ≠ some (s.spinCount + 1)) :
    step s = .next { s with
      spinCount := s.spinCountAfter 1
      todo := .issue (.readReg s.cfg.radio.regMarcstate) :: .test p :: rest } := by
  rw [step_action hr ht rfl]
  have htest : testState { s with todo := rest } p = spinAgain { s with todo := rest } p :=
    if_neg (ne_true_of_eq_false hno)
  rw [perform, htest]
  cases hl : s.cfg.spinLimit with
  | none => simp [spinAgain, hl, spinRead, State.plan, State.spinCountAfter]
  | some n =>
    have hn : s.spinCount + 1 ≠ n := fun h => hlimit (by rw [hl, h])
    simp [spinAgain, hl, hn, spinRead, State.plan, State.spinCountAfter]

/-! ## The spin -/

/-- One unsuccessful read that does not make the count reach the limit leaves Confirm at its next read. -/
theorem run_unsuccessful_read {s : State} {p : Awaited} {rest : List Act} {b : Byte} {more : Bytes} (hr : s.resetPin = false)
    (ht : s.todo = .issue (.readReg s.cfg.radio.regMarcstate) :: .test p :: rest) (hc : s.radioCompletes)
    (hregs : s.env.regs = b :: more) (hno : awaitedState s p b = false) (hlimit : s.cfg.spinLimit ≠ some (s.spinCount + 1)) :
    run 2 s = .next { s with
      rdData := b, spinCount := s.spinCountAfter 1, env := { s.env with regs := more }
      hist := s.hist ++ [.readReg s.cfg.radio.regMarcstate b] } := by
  refine run_succ_of_step (step_readReg hr ht hc hregs) (run_succ_of_step (step_test_again hr rfl hno hlimit) ?_)
  rw [run_zero, ht]
  rfl

/-- Any number of unsuccessful reads, none of which makes the count reach the limit, leaves Confirm at its next read: only the
answers are consumed, the reads recorded, and the count moved on. -/
theorem run_unsuccessful_reads {s : State} {p : Awaited} {rest : List Act} {others more : Bytes} (hr : s.resetPin = false)
    (ht : s.todo = .issue (.readReg s.cfg.radio.regMarcstate) :: .test p :: rest) (hc : s.radioCompletes)
    (hregs : s.env.regs = others ++ more) (hno : ∀ b ∈ others, awaitedState s p b = false)
    (hlimit : ∀ k < others.length, s.cfg.spinLimit ≠ some (s.spinCount + k + 1)) :
    run (2 * others.length) s = .next { s with
      rdData := others.getLastD s.rdData, spinCount := s.spinCountAfter others.length
      env := { s.env with regs := more }, hist := s.hist ++ others.map (.readReg s.cfg.radio.regMarcstate) } := by
  induction others generalizing s with
  | nil =>
    subst hregs
    simp [run_zero]
  | cons b others ih =>
    obtain ⟨hb, hothers⟩ := List.forall_mem_cons.mp hno
    have hround := run_unsuccessful_read hr ht hc hregs hb (hlimit 0 (Nat.succ_pos _))
    rw [List.length_cons, Nat.mul_succ, Nat.add_comm, run_trans hround]
    refine Eq.trans (ih hr ht hc rfl hothers ?_) ?_
    · intro k hk (hl : s.cfg.spinLimit = some (s.spinCountAfter 1 + k + 1))
      rw [State.spinCountAfter_of_some hl, Nat.add_assoc s.spinCount, Nat.add_comm 1] at hl
      exact hlimit (k + 1) (Nat.succ_lt_succ hk) hl
    · cases hl : s.cfg.spinLimit <;> simp [State.spinCountAfter, hl, List.getLast?_cons, Nat.add_assoc, Nat.add_comm]

/-- Confirm returns with the first byte that is the awaited state (R137, R280). -/
theorem run_confirm {s : State} {p : Awaited} {rest : List Act} {others more : Bytes} {good : Byte} (hr : s.resetPin = false)
    (ht : s.todo = .confirm p :: rest) (hc : s.radioCompletes) (hregs : s.env.regs = others ++ good :: more)
    (hno : ∀ b ∈ others, awaitedState s p b = false) (hyes : awaitedState s p good = true)
    (hlimit : ∀ k < others.length, s.cfg.spinLimit ≠ some (k + 1)) :
    run (1 + 2 * (others.length + 1)) s = .next { s with
      todo := rest, rdData := good, spinCount := if s.cfg.spinLimit.isSome then others.length else s.spinCount
      env := { s.env with regs := more }
      hist := s.hist ++ (others ++ [good]).map (.readReg s.cfg.radio.regMarcstate) } := by
  rw [Nat.add_comm, Nat.mul_succ]
  refine run_succ_of_step (step_confirm hr ht) (run_add_of_run (run_unsuccessful_reads hr rfl hc hregs hno ?_) ?_)
  · intro k hk (hl : s.cfg.spinLimit = some ((if s.cfg.spinLimit.isSome then 0 else s.spinCount) + k + 1))
    rw [if_pos (Option.isSome_of_eq_some hl), Nat.zero_add] at hl
    exact hlimit k hk hl
  refine run_succ_of_step (step_readReg hr rfl hc rfl) (run_succ_of_step (step_test_seen hr rfl hyes) ?_)
  cases hl : s.cfg.spinLimit <;> simp [run_zero, State.spinCountAfter, hl]

/-- Settles O23: with a limit, fewer than `n` unsuccessful reads do not make the count reach it (R280). -/
theorem confirmReturnsAfterAnyReads : Obligations.ConfirmReturnsAfterAnyReads := by
  constructor
  · intro s p rest others good more hr ht hl hc hregs hno hyes
    rw [run_confirm hr ht hc hregs hno hyes (by simp [hl]), hl]
    rfl
  · intro s p rest others good more n hr ht hl hc hregs hlt hno hyes
    have hlimit : ∀ k < others.length, s.cfg.spinLimit ≠ some (k + 1) := by
      rintro k hk h
      obtain rfl : n = k + 1 := Option.some.inj (hl.symm.trans h)
      omega
    rw [run_confirm hr ht hc hregs hno hyes hlimit, hl]
    rfl

end Sys2Proof.Machine
end

section
/-! The procedures built on Confirm: ArmReceive and Transmit with a radio that reports each awaited state at its first read
(40_radio_port.md R138, R144). -/

namespace Sys2Proof.Machine

theorem step_strobe {s : State} {cmd : Byte} {rest : List Act} (hr : s.resetPin = false)
    (ht : s.todo = .issue (.strobe cmd) :: rest) (hc : s.radioCompletes) :
    step s = .next { s with todo := rest, hist := s.hist ++ [.strobe cmd] } :=
  (step_issue hr ht hc).trans (exec_strobe _ cmd)

theorem step_writeBurst {s : State} {cmd : Byte} {B : Bytes} {rest : List Act} (hr : s.resetPin = false)
    (ht : s.todo = .issue (.writeBurst cmd B) :: rest) (hc : s.radioCompletes) :
    step s = .next { s with todo := rest, hist := s.hist ++ [.writeBurst cmd B] } :=
  (step_issue hr ht hc).trans (exec_writeBurst _ cmd B)

/-- Confirm with a radio that reports the awaited state at the first read. -/
theorem run_confirm_first {s : State} {p : Awaited} {rest : List Act} {good : Byte} {more : Bytes} (hr : s.resetPin = false)
    (ht : s.todo = .confirm p :: rest) (hc : s.radioCompletes) (hregs : s.env.regs = good :: more)
    (hyes : awaitedState s p good = true) :
    run 3 s = .next { s with
      todo := rest, rdData := good, spinCount := if s.cfg.spinLimit.isSome then 0 else s.spinCount
      env := { s.env with regs := more }, hist := s.hist ++ [.readReg s.cfg.radio.regMarcstate good] } :=
  run_confirm (others := []) hr ht hc hregs (by simp) hyes (by simp)

/-- ArmReceive (R144). -/
theorem run_armReceive {s : State} {rest : List Act} {armed : Byte} {more : Bytes} (hr : s.resetPin = false)
    (ht : s.todo = armReceive s.cfg ++ rest) (hc : s.radioCompletes) (hregs : s.env.regs = armed :: more)
    (harmed : awaitedState s .rxArmed armed = true) :
    run 4 s = .next { s with
      todo := rest, rdData := armed, spinCount := if s.cfg.spinLimit.isSome then 0 else s.spinCount
      env := { s.env with regs := more }
      hist := s.hist ++ [.strobe s.cfg.radio.strobeRx, .readReg s.cfg.radio.regMarcstate armed] } := by
  refine run_succ_of_step (step_strobe hr ht hc) (Eq.trans (run_confirm_first hr rfl hc hregs harmed) ?_)
  simp

/-- Transmit after its first line (R138). -/
theorem run_transmitActs {s : State} {B : Bytes} {rest : List Act} {done armed : Byte} {more : Bytes}
    (hr : s.resetPin = false) (ht : s.todo = transmitActs s.cfg B ++ rest) (hc : s.radioCompletes)
    (hregs : s.env.regs = done :: armed :: more) (hdone : awaitedState s .txDone done = true)
    (harmed : awaitedState s .rxArmed armed = true) :
    run 9 s = .next { s with
      todo := rest, rdData := armed, spinCount := if s.cfg.spinLimit.isSome then 0 else s.spinCount
      env := { s.env with regs := more }, hist := s.hist ++ transmitEvents s.cfg B done armed } := by
  refine run_succ_of_step (step_writeBurst hr ht hc) (run_succ_of_step (step_strobe hr rfl hc) ?_)
  refine run_add_of_run (j := 3) (k := 4) (run_confirm_first hr rfl hc hregs hdone) ?_
  refine Eq.trans (run_armReceive hr rfl hc rfl harmed) ?_
  cases s.cfg.spinLimit <;> simp [transmitEvents]

/-- Settles O26: the transmit sequence runs its transactions in order, and only the count of unsuccessful reads depends on the
limit. -/
theorem transmitSequenceInOrder : Obligations.TransmitSequenceInOrder :=
  fun _ _ _ _ _ _ hr ht hc hregs hdone harmed => ⟨_, run_transmitActs hr ht hc hregs hdone harmed, rfl⟩

end Sys2Proof.Machine
end

section
/-! The diagnostic commands (40_radio_port.md R142, R143). -/

namespace Sys2Proof.Machine

theorem step_respondValue {s : State} {rest : List Act} (hr : s.resetPin = false) (ht : s.todo = .respondValue :: rest) :
    step s = .next (respond { s with todo := rest } ⟨true, .ok, .value s.rdData⟩) := by
  rw [step_action hr ht rfl]
  rfl

/-- A diagnostic command that is not refused waits for its register read (R180). -/
theorem beginDiagnostic_of_not_faulted {s : State} (hf : s.fault = false) (op : BitVec 3) (id : Byte) :
    beginDiagnostic s op id = { acceptBare s op with todo := [.issue (.readReg id), .respondValue] } := by
  have hgate : gateAny (acceptBare s op) = none := if_neg (ne_true_of_eq_false hf)
  simp only [beginDiagnostic, hgate]

/-- A diagnostic command answers the byte its register reads as. -/
theorem run_beginDiagnostic {s : State} {b : Byte} {more : Bytes} (hr : s.resetPin = false) (hf : s.fault = false)
    (hc : s.radioCompletes) (hregs : s.env.regs = b :: more) (op : BitVec 3) (id : Byte) :
    ∃ u, run 2 (beginDiagnostic s op id) = .next u ∧ u = { s with
      busy := false, rsp := some ⟨true, .ok, .value b⟩, todo := [], latch := u.latch, opData := [], tick := u.tick
      rdData := b, env := { s.env with regs := more }
      hist := s.hist ++ [.accepted op, .readReg id b, .response ⟨true, .ok, .value b⟩] } := by
  rw [beginDiagnostic_of_not_faulted hf]
  refine ⟨_, run_succ_of_step (step_readReg hr rfl hc hregs) (run_succ_of_step (step_respondValue hr rfl) (run_zero _)), ?_⟩
  simp [acceptBare, accept, latchCode, respond]

/-- Settles O20: the two commands differ in their code and their register only. -/
theorem diagnosticsAnswerTheByte : Obligations.DiagnosticsAnswerTheByte := by
  intro s b more hr hf hc hregs
  obtain ⟨u, hrun, hu⟩ := run_beginDiagnostic hr hf hc hregs opGetVersion s.cfg.radio.regVersion
  obtain ⟨v, hrun', hv⟩ := run_beginDiagnostic hr hf hc hregs opGetPartNumber s.cfg.radio.regPartnum
  exact ⟨⟨_, u, rfl, hrun, hu⟩, _, v, rfl, hrun', hv⟩

end Sys2Proof.Machine
end

section
/-! The frames DecodeOne accepts and the reasons it gives for the others, in the order of its checks (41_codec.md R163 to R168). -/

namespace Sys2Proof

/-! ## The checks of a frame's type and fields -/

/-- A byte that is there is what reading with a filler gives. -/
theorem getD_of_getElem? {F : Bytes} {k : Nat} {b : Byte} (h : F[k]? = some b) : F.getD k 0 = b := by
  rw [List.getD_eq_getElem?_getD, h, Option.getD_some]

theorem parseFrame_ackLength {c : Config} {F : Bytes} {L : Byte} (h0 : F[0]? = some L) (htype : F[5]? = some c.ptAck)
    (hL : L.toNat ≠ lAck) : parseFrame c F = .error .ackLength := by
  simp only [parseFrame, getD_of_getElem? h0, getD_of_getElem? htype]
  rw [if_pos trivial, if_pos hL]

section
variable {c : Config} {F : Bytes} {L : Byte} (hc : c.ptAck ≠ c.ptMsg) (h0 : F[0]? = some L) (htype : F[5]? = some c.ptMsg)
include hc h0 htype

theorem parseFrame_msgShort (hL : L.toNat < 7) : parseFrame c F = .error .msgShort := by
  simp only [parseFrame, getD_of_getElem? h0, getD_of_getElem? htype]
  rw [if_neg hc.symm, if_pos trivial, if_pos hL]

variable {n : Byte} (h7 : F[7]? = some n) (hL : 7 ≤ L.toNat)
include h7 hL

theorem parseFrame_dataLen (hn : dataMax < n.toNat) : parseFrame c F = .error .dataLen := by
  simp only [parseFrame, getD_of_getElem? h0, getD_of_getElem? htype, getD_of_getElem? h7]
  rw [if_neg hc.symm, if_pos trivial, if_neg (Nat.not_lt.mpr hL), if_pos hn]

theorem parseFrame_lengthMismatch (hn : n.toNat ≤ dataMax) (hne : L.toNat ≠ lMsg n.toNat) :
    parseFrame c F = .error .lengthMismatch := by
  simp only [parseFrame, getD_of_getElem? h0, getD_of_getElem? htype, getD_of_getElem? h7]
  rw [if_neg hc.symm, if_pos trivial, if_neg (Nat.not_lt.mpr hL), if_neg (Nat.not_lt.mpr hn), if_pos hne]

end

theorem parseFrame_reservedType {c : Config} {F : Bytes} {type : Byte} (h5 : F[5]? = some type) (hack : type ≠ c.ptAck)
    (hmsg : type ≠ c.ptMsg) : parseFrame c F = .error .reservedType := by
  simp only [parseFrame, getD_of_getElem? h5]
  rw [if_neg hack, if_neg hmsg]

/-- Settles O6: the encoding of either frame kind, by R161 and R162. -/
theorem lengthByteCountsWhatFollows : Obligations.LengthByteCountsWhatFollows :=
  fun _ _ hf hw => encode_frame_length hf hw

end Sys2Proof

namespace Sys2Proof.Machine

/-! ## Reads that begin at one place -/

/-- What has been read in one piece can be read up to any point of it. -/
theorem memRead_take {s : State} {sp : Space} {a m n : Nat} {bs : Bytes} (h : memRead s sp a n = .ok bs) (hm : m ≤ n) :
    memRead s sp a m = .ok (bs.take m) := by
  obtain ⟨hlen, hbytes⟩ := memRead_eq_ok.mp h
  refine memRead_eq_ok.mpr ⟨by rw [List.length_take]; omega, fun k hk => ?_⟩
  rw [List.getElem_take]
  exact hbytes k (by rw [List.length_take] at hk; omega)

theorem memRead_one_of_readByte {s : State} {sp : Space} {a : Nat} {b : Byte} (h : readByte s sp a = some b) :
    memRead s sp a 1 = .ok [b] :=
  memRead_eq_ok.mpr ⟨rfl, fun k hk => by obtain rfl : k = 0 := Nat.lt_one_iff.mp hk; exact h⟩

/-- The first byte of what has been read. -/
theorem readByte_of_memRead {s : State} {sp : Space} {a n : Nat} {bs : Bytes} (h : memRead s sp a (n + 1) = .ok bs) :
    readByte s sp a = bs[0]? := by
  obtain ⟨hlen, hbytes⟩ := memRead_eq_ok.mp h
  have hpos : 0 < bs.length := by omega
  rw [List.getElem?_eq_getElem hpos]
  exact hbytes 0 hpos

/-! ## DecodeOne, check by check (R165) -/

section
variable {s : State} {o : Nat} {rem : Int} {L : Byte} (hL : readByte s .rx o = some L)
include hL

theorem decodeOne_shortHeader (h5 : L.toNat < 5) : decodeOne s o rem = .ok (.malformed .shortHeader, L.toNat + 3) := by
  simp only [decodeOne, memRead_one_of_readByte hL, List.getD_cons_zero]
  rw [if_pos h5]

theorem decodeOne_truncated (h5 : 5 ≤ L.toNat) (hrem : rem < (L.toNat : Int) + 3) :
    decodeOne s o rem = .ok (.malformed .truncated, L.toNat + 3) := by
  simp only [decodeOne, memRead_one_of_readByte hL, List.getD_cons_zero]
  rw [if_neg (Nat.not_lt.mpr h5), if_pos hrem]

variable {F : Bytes} (h5 : 5 ≤ L.toNat) (hrem : (L.toNat : Int) + 3 ≤ rem) (hF : memRead s .rx o (L.toNat + 1) = .ok F)
include h5 hrem hF

/-- A burst that holds the frame and its trailer: the fields decide. -/
theorem decodeOne_of_parseFrame_ok {i : Instr} (hp : parseFrame s.cfg F = .ok i) :
    decodeOne s o rem = .ok (.frame i, L.toNat + 3) := by
  simp only [decodeOne, memRead_one_of_readByte hL, List.getD_cons_zero, hF, hp]
  rw [if_neg (Nat.not_lt.mpr h5), if_neg (Int.not_lt.mpr hrem)]

theorem decodeOne_of_parseFrame_error {why : Malformed} (hp : parseFrame s.cfg F = .error why) :
    decodeOne s o rem = .ok (.malformed why, L.toNat + 3) := by
  simp only [decodeOne, memRead_one_of_readByte hL, List.getD_cons_zero, hF, hp]
  rw [if_neg (Nat.not_lt.mpr h5), if_neg (Int.not_lt.mpr hrem)]

end

/-- Settles O10: the two checks on the burst, then the checks on the fields of the bytes read. -/
theorem malformedReasonsInOrder : Obligations.MalformedReasonsInOrder := by
  intro s o rem L hL
  refine ⟨decodeOne_shortHeader hL, decodeOne_truncated hL, fun F h5 hrem hF => ?_⟩
  have h0 : F[0]? = some L := (readByte_of_memRead hF).symm.trans hL
  have hlen := memRead_length hF
  have malformed {why : Malformed} (hp : parseFrame s.cfg F = .error why) :
      decodeOne s o rem = .ok (.malformed why, L.toNat + 3) := decodeOne_of_parseFrame_error hL h5 hrem hF hp
  refine ⟨fun htype hne => malformed ?_, fun hc htype => ⟨fun h7 => malformed ?_, fun n hn => ?_⟩, fun hack hmsg => malformed ?_⟩
  · exact parseFrame_ackLength h0 htype fun h => hne (BitVec.eq_of_toNat_eq h)
  · exact parseFrame_msgShort hc h0 htype h7
  · obtain ⟨hlt, -⟩ := List.getElem?_eq_some_iff.mp hn
    have h7 : 7 ≤ L.toNat := by omega
    exact ⟨fun hbig => malformed (parseFrame_dataLen hc h0 htype hn h7 hbig),
      fun hle hne => malformed (parseFrame_lengthMismatch hc h0 htype hn h7 hle hne)⟩
  · have htype : F[5]? = some F[5] := List.getElem?_eq_getElem (by omega)
    rw [htype] at hack hmsg
    exact parseFrame_reservedType htype (fun h => hack (congrArg some h)) fun h => hmsg (congrArg some h)

/-! ## The frames accepted -/

/-- A frame is answered only after all checks: its bytes were read in one piece and their fields accepted. -/
theorem parseFrame_of_decodeOne {s : State} {o n : Nat} {rem : Int} {i : Instr}
    (h : decodeOne s o rem = .ok (.frame i, n)) :
    ∃ L F, F[0]? = some L ∧ 5 ≤ L.toNat ∧ n = L.toNat + 3 ∧ (n : Int) ≤ rem ∧ memRead s .rx o (L.toNat + 1) = .ok F ∧
      parseFrame s.cfg F = .ok i := by
  obtain ⟨L, hL, rfl⟩ := decodeOne_consumed h
  simp only [decodeOne, memRead_one_of_readByte hL, List.getD_cons_zero] at h
  split at h
  · cases h
  split at h
  · cases h
  split at h
  · cases h
  · next h5 hrem _ F hF =>
    split at h
    · next hp =>
      cases h
      exact ⟨L, F, (readByte_of_memRead hF).symm.trans hL, Nat.not_lt.mp h5, rfl, Int.not_lt.mp hrem, hF, hp⟩
    · cases h

/-- Settles O8: a frame accepted is read back by the encoder, and an encoding in the burst passes every check. -/
theorem decodeOneAcceptsExactlyFrames : Obligations.DecodeOneAcceptsExactlyFrames := by
  intro s o rem i n hc
  constructor
  · intro h
    obtain ⟨L, F, h0, h5, rfl, hrem, hF, hp⟩ := parseFrame_of_decodeOne h
    have hlen := memRead_length hF
    obtain ⟨hf, hw, rfl⟩ := encode_parseFrame (by rw [getD_of_getElem? h0, hlen]) (by rwa [getD_of_getElem? h0]) hp
    exact ⟨hf, hw, by rw [hlen], hrem, by rwa [hlen]⟩
  · rintro ⟨hf, hw, rfl, hrem, hF⟩
    obtain ⟨L, rest, he, hL, h5, -⟩ := encode_frame_length hf hw
    have hlen : (encode s.cfg i).length = L.toNat + 1 := by rw [he, List.length_cons, hL]
    rw [hlen] at hF hrem ⊢
    have h0 : readByte s .rx o = some L := by rw [readByte_of_memRead hF, he, List.getElem?_cons_zero]
    exact decodeOne_of_parseFrame_ok h0 (by omega) (by omega) hF (parseFrame_encode hc hf hw)

/-- Settles O7: what was written is read back (R29), so the frame lies in the burst with its trailer (O8). -/
theorem receivedFrameRoundTrip : Obligations.ReceivedFrameRoundTrip := by
  intro s t i x y hc hf hw hwrite
  have hcfg : t.cfg = s.cfg := by obtain ⟨-, rfl⟩ := memWrite_eq_ok.mp hwrite; exact State.setMemory_cfg ..
  have hread := memRead_take (memRead_memWrite_same hwrite) (m := (encode s.cfg i).length) (by simp)
  rw [List.take_left] at hread
  rw [← hcfg] at hc hw hread ⊢
  exact (decodeOneAcceptsExactlyFrames t 0 _ i _ hc).mpr ⟨hf, hw, rfl, le_rfl, hread⟩

/-! ## The split loop past a malformed frame (R167) -/

theorem decodeOne_congr {s t : State} {o : Nat} {rem : Int} (hc : t.cfg = s.cfg) (hm : t.rxBuf = s.rxBuf) :
    decodeOne t o rem = decodeOne s o rem := by
  simp only [decodeOne, memRead_congr (s := s) (t := t) (sp := .rx) hc hm, hc]

/-- A malformed frame at the cursor is recorded with its offset, and what it consumed is to be skipped next. -/
theorem step_split_malformed {s : State} {rest : List Act} {why : Malformed} {n : Nat} (hr : s.resetPin = false)
    (ht : s.todo = .split :: rest) (hrem : 0 < s.rxRem) (hd : decodeOne s s.rxOff s.rxRem = .ok (.malformed why, n)) :
    step s = .next { s with
      todo := .advance n :: .split :: rest, hist := s.hist ++ [.raised (.malformedFrame why s.rxOff)] } := by
  have hd' : decodeOne { s with todo := rest } s.rxOff s.rxRem = .ok (.malformed why, n) := by
    rw [← hd]
    exact decodeOne_congr rfl rfl
  rw [step_action hr ht rfl]
  simp only [perform, splitStep, Int.not_le.mpr hrem, if_false, hd']
  rfl

theorem step_advance {s : State} {rest : List Act} {n : Nat} (hr : s.resetPin = false) (ht : s.todo = .advance n :: rest) :
    step s = .next { s with todo := rest, rxOff := s.rxOff + n, rxRem := s.rxRem - n } := by
  rw [step_action hr ht rfl]
  rfl

/-- Settles O30: the event and the cursor's advance are a step each, and the loop is at its head again. -/
theorem malformedFrameIsDiscarded : Obligations.MalformedFrameIsDiscarded := by
  intro s rest why n hr ht hrem hd
  refine run_succ_of_step (step_split_malformed hr ht hrem hd) (run_succ_of_step (step_advance hr rfl) ?_)
  rw [run_zero, ht]

end Sys2Proof.Machine
end

section
/-! Commands that end where they are accepted: the gating refuses them (42_delivery_engine.md R180, R273), or the operand checks
of INIT and POST_MESSAGE fail them (R181, R183). -/

namespace Sys2Proof.Machine

/-! ## The gating, in a block that is not faulted -/

section
variable {s : State} (hf : s.fault = false)
include hf

theorem gateRunning_of_idle (he : s.engState = .idle) : gateRunning s = some .notInit := by
  simp [gateRunning, hf, he]

theorem gateRunning_of_running (he : s.engState ≠ .idle) : gateRunning s = none := by
  simp [gateRunning, hf, he]

theorem gateInit_of_idle (he : s.engState = .idle) : gateInit s = none := by
  simp [gateInit, hf, he]

theorem gateInit_of_running (he : s.engState ≠ .idle) : gateInit s = some .alreadyInit := by
  simp [gateInit, hf, he]

theorem refuseReserved_of_not_faulted (op : BitVec 3) :
    refuseReserved s op = refuse (acceptBare s op) .reservedCmd := by
  have hg : gateReserved (acceptBare s op) = .reservedCmd := if_neg (ne_true_of_eq_false hf)
  simp only [refuseReserved, hg]

end

/-! ## The operand checks of INIT -/

theorem address_valid_iff (a : Byte) : ¬ (a < addrMin ∨ addrMax < a) ↔ 1 ≤ a.toNat ∧ a.toNat ≤ 126 := by
  change ¬ (a.toNat < 1 ∨ 126 < a.toNat) ↔ _
  omega

/-- The address is tested first (R280). -/
theorem initOperandError_address (s : State) {a p : Byte} (ha : a.toNat < 1 ∨ 126 < a.toNat) :
    initOperandError s a p = some (.configError .address a, .cfgAddr) := by
  have hbad : a < addrMin ∨ addrMax < a := by
    by_contra h
    have := (address_valid_iff a).mp h
    omega
  simp only [initOperandError, if_pos hbad]

theorem initOperandError_power {s : State} {a p : Byte} (h1 : 1 ≤ a.toNat) (h2 : a.toNat ≤ 126)
    (hp : s.cfg.powerValid p = false) : initOperandError s a p = some (.configError .power p, .cfgPower) := by
  simp only [initOperandError, if_neg ((address_valid_iff a).mpr ⟨h1, h2⟩), hp, Bool.false_eq_true, if_false]

theorem initOperandError_none {s : State} {a p : Byte} (h1 : 1 ≤ a.toNat) (h2 : a.toNat ≤ 126)
    (hp : s.cfg.powerValid p = true) : initOperandError s a p = none := by
  simp only [initOperandError, if_neg ((address_valid_iff a).mpr ⟨h1, h2⟩), hp, if_true]

/-! ## What a refusal and a failure leave -/

/-- A command refused where it is accepted changes the block at the port only, and shows one event of R260 (R180, log 14). -/
theorem refuse_accept {s : State} {l : Latches} {data : Memory} {code : RspCode} {op : BitVec 3} {e : Raised} {r : Result}
    (h : r = .next (refuse (accept s l data) code)) (hop : l.opCode = op) (he : refusalEvent op code = some e) :
    ∃ t, r = .next t ∧ t.rsp = some ⟨false, code, .nothing⟩ ∧ t.busy = false ∧ SameButPort s t ∧
      t.hist = s.hist ++ [.accepted op, .response ⟨false, code, .nothing⟩] ∧ t.eventsShown = s.eventsShown ++ [e] := by
  subst hop
  refine ⟨_, h, rfl, rfl, rfl, by simp, ?_⟩
  simp [State.eventsShown, he]

/-- A command that fails where it is accepted changes the block at the port only, and raises the cause. -/
theorem fail_accept {s : State} {l : Latches} {data : Memory} {code : RspCode} {op : BitVec 3} {e : Raised} {r : Result}
    (h : r = .next (fail (accept s l data) e code)) (hop : l.opCode = op) :
    ∃ t, r = .next t ∧ t.rsp = some ⟨false, code, .nothing⟩ ∧ t.busy = false ∧ SameButPort s t ∧
      t.hist = s.hist ++ [.accepted op, .raised e, .response ⟨false, code, .nothing⟩] := by
  subst hop
  exact ⟨_, h, rfl, rfl, rfl, by simp⟩

/-! ## The commands that are refused or fail -/

theorem exec_poll_refused {s : State} {code : RspCode} (h : gateRunning s = some code) :
    exec .poll s = .next (refuse (acceptBare s opPoll) code) := by
  have hg : gateRunning (acceptBare s opPoll) = some code := h
  simp only [exec, execPoll, hg]

section
variable {s : State} {r m n : Byte} {d : Bytes} {k : Nat}

theorem exec_postMessage_refused {code : RspCode} (h : gateRunning s = some code) :
    exec (.postMessage r m n d k) s = .next (refuse (acceptPost s r m n d k) code) := by
  have hg : gateRunning (acceptPost s r m n d k) = some code := h
  simp only [exec, execPostMessage, hg]

theorem exec_postMessage_dataTooLong (h : gateRunning s = none) (hn : dataMax < n.toNat) :
    exec (.postMessage r m n d k) s = .next (fail (acceptPost s r m n d k) (.dataTooLong n) .dataTooLong) := by
  have hg : gateRunning (acceptPost s r m n d k) = none := h
  simp only [exec, execPostMessage, hg, if_pos hn]

end

section
variable {s : State} {a p : Byte} {g : Half}

theorem exec_init_refused {code : RspCode} (h : gateInit s = some code) :
    exec (.init a p g) s = .next (refuse (acceptInit s a p g) code) := by
  have hg : gateInit (acceptInit s a p g) = some code := h
  simp only [exec, execInit, hg]

theorem exec_init_failed {e : Raised} {code : RspCode} (h : gateInit s = none) (he : initOperandError s a p = some (e, code)) :
    exec (.init a p g) s = .next (fail (acceptInit s a p g) e code) := by
  have hg : gateInit (acceptInit s a p g) = none := h
  have hi : initOperandError (acceptInit s a p g) a p = some (e, code) := he
  simp only [exec, execInit, hg, hi]

end

/-- A record at the port of an idle block whose code is reserved (R273). -/
theorem step_reserved {s : State} {op : BitVec 3} {record : Bytes} {others : List Bytes} (hr : s.resetPin = false)
    (ht : s.todo = []) (hb : s.busy = false) (hp : s.cmdPort = record :: others)
    (hd : decodeCmd s.cfg record = .error (.reservedOp op)) :
    step s = .next (refuseReserved { s with cmdPort := others } op) := by
  simp [step, hr, ht, idleStep, hb, hp, acceptRecord, hd]

/-- Settles O16: each row of R180 with `fault = 0` that refuses, refused where it is accepted. -/
theorem gatingRefusesByState : Obligations.GatingRefusesByState := by
  refine ⟨fun s hf he => ?_, fun s r m n d k hf he => ?_, fun s a p g hf he => ?_,
    fun s op record others hr ht hb hp hd hf => ?_⟩
  · exact refuse_accept (exec_poll_refused (gateRunning_of_idle hf he)) rfl rfl
  · exact refuse_accept (exec_postMessage_refused (gateRunning_of_idle hf he)) rfl rfl
  · exact refuse_accept (exec_init_refused (gateInit_of_running hf he)) rfl rfl
  · have hstep := step_reserved hr ht hb hp hd
    rw [refuseReserved_of_not_faulted (s := { s with cmdPort := others }) hf] at hstep
    exact refuse_accept hstep rfl rfl

/-- Settles O17: the checks of INIT in their order, each failing the command where it is accepted. -/
theorem initRejectsBadOperands : Obligations.InitRejectsBadOperands := by
  intro s a p g hf he
  have hgate := gateInit_of_idle hf he
  exact ⟨fun ha => fail_accept (exec_init_failed hgate (initOperandError_address s ha)) rfl,
    fun h1 h2 hp => fail_accept (exec_init_failed hgate (initOperandError_power h1 h2 hp)) rfl⟩

/-- Settles O44: the length is tested right after the gating. -/
theorem postRejectsLongData : Obligations.PostRejectsLongData :=
  fun _ _ _ _ _ _ hf he hn => fail_accept (exec_postMessage_dataTooLong (gateRunning_of_running hf he) hn) rfl

end Sys2Proof.Machine
end

section
/-! INIT from its acceptance to its response (42_delivery_engine.md R181), the wait (R188), and the transitions of `engState`
(R195). -/

namespace Sys2Proof.Machine

/-! ## INIT -/

/-- INIT that passes its checks writes the identity, and its radio sequence comes next. -/
theorem exec_init_begins {s : State} {a p : Byte} {g : Half} (h : gateInit s = none) (he : initOperandError s a p = none) :
    exec (.init a p g) s = .next { acceptInit s a p g with
      deviceAddress := a, outputPower := p, messageSignature := g
      todo := .configure p :: armReceive s.cfg ++ [.initDone] } := by
  have hg : gateInit (acceptInit s a p g) = none := h
  have hi : initOperandError (acceptInit s a p g) a p = none := he
  simp only [exec, execInit, hg, hi]
  rfl

theorem step_initDone {s : State} {rest : List Act} (hr : s.resetPin = false) (ht : s.todo = .initDone :: rest) :
    step s = .next { s with
      engState := .receiving, busy := false, rsp := some ⟨true, .ok, .nothing⟩, todo := []
      hist := s.hist ++ [.response ⟨true, .ok, .nothing⟩] } := by
  rw [step_action hr ht rfl]
  rfl

/-- The radio sequence of INIT, with a radio that reports receive-armed at the first read, and the response. -/
theorem run_initActs {s : State} {p armed : Byte} {more : Bytes} (hr : s.resetPin = false)
    (ht : s.todo = .configure p :: armReceive s.cfg ++ [.initDone]) (hc : s.radioCompletes)
    (hregs : s.env.regs = armed :: more) (harmed : awaitedState s .rxArmed armed = true) :
    run 6 s = .next { s with
      engState := .receiving, busy := false, rsp := some ⟨true, .ok, .nothing⟩, todo := [], rdData := armed
      spinCount := if s.cfg.spinLimit.isSome then 0 else s.spinCount, env := { s.env with regs := more }
      hist := s.hist ++ [.configure p, .strobe s.cfg.radio.strobeRx, .readReg s.cfg.radio.regMarcstate armed,
        .response ⟨true, .ok, .nothing⟩] } := by
  refine run_succ_of_step (step_configure hr ht hc) ?_
  refine run_add_of_run (j := 4) (k := 1) (run_armReceive hr rfl hc hregs harmed) ?_
  refine run_succ_of_step (step_initDone hr rfl) ?_
  cases hl : s.cfg.spinLimit <;> simp [run_zero, hl]

/-- Settles O18: the checks pass, the radio sequence runs, and the last action responds. -/
theorem initCompletes : Obligations.InitCompletes := by
  intro s a p g armed more hr hf he hc h1 h2 hp hregs harmed
  refine ⟨_, _, exec_init_begins (gateInit_of_idle hf he) (initOperandError_none h1 h2 hp), rfl, rfl, rfl, rfl,
    run_initActs hr rfl hc hregs harmed, ?_, fun hl => by simp [hl, acceptInit]⟩
  simp [acceptInit, accept, latchCode, opInit]

/-! ## The wait -/

theorem step_wait {s : State} {rest : List Act} (hr : s.resetPin = false) (ht : s.todo = .wait :: rest) :
    step s = .next { s with todo := rest, winTimer := 0, hist := s.hist ++ [.wait 300] } := by
  rw [step_action hr ht rfl]
  rfl

/-- Settles O50: the wait is one action, performed whatever the state. -/
theorem waitWindowOnlyWaits : Obligations.WaitWindowOnlyWaits := fun _ _ hr ht => step_wait hr ht

/-! ## The transitions of the engine state -/

@[simp] theorem EngState.mayFollow_self (e : EngState) : e.mayFollow e = true := by cases e <;> rfl

@[simp] theorem EngState.mayFollow_receiving (e : EngState) : e.mayFollow .receiving = true := by cases e <;> rfl

theorem EngState.mayFollow_transmitting {e : EngState} (h : e ≠ .idle) : e.mayFollow .transmitting = true := by
  cases e with
  | idle => exact absurd rfl h
  | _ => rfl

/-- The engine states in which an action comes next. Named are the actions that can move the engine along a transition that
does not exist from every state. -/
def Act.fits : Act → EngState → Prop
  | .afterTransmit, e => e = .transmitting
  | .split, e | .pollCycle _, e | .endCycle _ _, e => e ≠ .idle
  | _, _ => True

/-- The last action of a command fits the engine state of its phase. -/
theorem Act.phase.fits_last {l : Act} {e : EngState} (h : l.phase e []) : l.fits e := by
  cases l with
  | afterTransmit => exact h.1
  | split | pollCycle | endCycle => exact h.2
  | _ => trivial

/-- So does an action before the last one. -/
theorem Act.phase.fits_inner {a l : Act} {e : EngState} {inner : List Act} (h : l.phase e (a :: inner))
    (ha : a.isLast = false) : a.fits e := by
  cases a with
  | split => exact h.not_idle rfl
  | afterTransmit | pollCycle | endCycle => cases ha
  | _ => trivial

theorem ControlOk.fits_head {s : State} {a : Act} {rest : List Act} (h : ControlOk s) (ht : s.todo = a :: rest) :
    a.fits s.engState := by
  rcases h.todo_nil_or_concat with ⟨hnil, -⟩ | ⟨inner, l, hinner, -, -, hacts, hphase⟩
  · cases hnil.symm.trans ht
  · have htodo := hinner.symm.trans ht
    cases inner with
    | nil =>
      obtain ⟨rfl, -⟩ : l = a ∧ [] = rest := by simpa using htodo
      exact hphase.fits_last
    | cons b inner =>
      obtain ⟨rfl, -⟩ : b = a ∧ inner ++ [l] = rest := by simpa using htodo
      exact hphase.fits_inner (hacts b List.mem_cons_self).2

theorem Ends.mayFollow {s t : State} {c : Caller} (h : Ends s c t) (he : s.engState ≠ .idle) :
    s.engState.mayFollow t.engState = true := by
  cases h with
  | polled | posted => exact EngState.mayFollow_receiving _
  | retry => exact EngState.mayFollow_transmitting he

theorem Cycles.mayFollow {s t : State} {c : Caller} (h : Cycles s c t) (he : s.engState ≠ .idle) :
    s.engState.mayFollow t.engState = true := by
  cases h with
  | high => exact EngState.mayFollow_self _
  | low _ _ _ h => exact h.mayFollow he

/-- A frame is met only where a burst is split, so never in IDLE. -/
theorem Runs.mayFollow {s t : State} {i : Instr} (h : Runs s i t) (hframe : i.format = .frame → s.engState ≠ .idle) :
    s.engState.mayFollow t.engState = true := by
  cases h with
  | reply hi => exact EngState.mayFollow_transmitting (hframe hi)
  | poll l _ he h => exact h.mayFollow he
  | getMessage l =>
    rw [unlinkPage_frame]
    exact EngState.mayFollow_self _
  | post _ _ _ _ _ l bs F _ _ he => exact EngState.mayFollow_transmitting he
  | _ => exact EngState.mayFollow_self _

theorem Performs.mayFollow {s t : State} {a : Act} (h : Performs s a t) (hok : a.ok s.cfg) (he : a.fits s.engState) :
    s.engState.mayFollow t.engState = true := by
  cases h with
  | issue h => exact h.mayFollow fun hi => nomatch hok.1.symm.trans hi
  | frame _ _ _ h => exact h.mayFollow fun _ => he
  | pollCycle h => exact h.mayFollow he
  | endCycle h => exact h.mayFollow he
  | receiving | initDone | broadcast => exact EngState.mayFollow_receiving _
  | unicast =>
    rw [show s.engState = .transmitting from he]
    rfl
  | enqueue h =>
    rw [push_frame h]
    exact EngState.mayFollow_self _
  | _ => exact EngState.mayFollow_self _

/-- Settles O53: an action is next only in the engine states it fits, and no acceptance starts what IDLE rules out. -/
theorem engineFollowsItsTransitions : Obligations.EngineFollowsItsTransitions := by
  intro s t hctl hreset hstep
  cases Steps.of_step hstep with
  | reset hr => simp [hreset] at hr
  | stay => exact EngState.mayFollow_self _
  | action ht h => exact h.mayFollow (hctl.acts _ (by simp [ht])) (hctl.fits_head ht)
  | command _ _ _ hd h => exact h.mayFollow fun hi => nomatch (decodeCmd_format hd).1.symm.trans hi
  | reserved => exact EngState.mayFollow_self _

end Sys2Proof.Machine
end

section
/-! POST_MESSAGE from its acceptance to its first attempt (42_delivery_engine.md R182, R184), and to the end of a broadcast
(R186). -/

namespace Sys2Proof.Machine

/-! ## The frame and the first attempt -/

/-- What one state reads, a state with the same parameters and the same bytes reads. -/
theorem memRead_of_congr {s t : State} {sp : Space} {a n : Nat} {bs : Bytes} (h : memRead s sp a n = .ok bs)
    (hc : t.cfg = s.cfg) (hm : t.memory sp = s.memory sp) : memRead t sp a n = .ok bs := (memRead_congr hc hm).trans h

theorem startAttempt_eq {s : State} {B : Bytes} (h : memRead s .tx 0 s.txLen = .ok B) :
    startAttempt s = .next { s with engState := .transmitting, todo := transmitActs s.cfg B ++ [.afterTransmit] } := by
  simp only [startAttempt, h]
  rfl

/-- Only the first `dataLen` bytes of the data operand are in a frame (R162). -/
theorem encodeMsg_take (c : Config) (r sd : Byte) (tok : Half) (m n : Byte) (d : Bytes) :
    encodeMsg c r sd tok m n (d.take n.toNat) = encodeMsg c r sd tok m n d := by
  simp [encodeMsg]

/-- The frame of a POST_MESSAGE with these operands (R184). -/
def State.frameOf (s : State) (r m n : Byte) (d : Bytes) : Bytes :=
  encodeMsg s.cfg r s.deviceAddress s.messageSignature m n d

/-- The state at the start of the first attempt of a POST_MESSAGE (R182). -/
def State.posted (s : State) (r m n : Byte) (d : Bytes) (k : Nat) : State :=
  { acceptPost s r m n d k with
    txBuf := Memory.store s.txBuf 0 (s.frameOf r m n d), txLen := 8 + n.toNat, ackSeen := false, attempt := 0
    awaitAddr := r, awaitValid := decide (r ≠ 0), engState := .transmitting
    todo := transmitActs s.cfg (s.frameOf r m n d) ++ [.afterTransmit] }

@[simp] theorem State.posted_hist (s : State) (r m n : Byte) (d : Bytes) (k : Nat) :
    (s.posted r m n d k).hist = s.hist ++ [.accepted 3] := rfl

section
variable (s : State) (r m n : Byte) {d : Bytes} (k : Nat) (hd : d.length = 32)
include hd

theorem memRead_acceptPost_opData : memRead (acceptPost s r m n d k) .opData 0 32 = .ok d := by
  have hw : memWrite { acceptPost s r m n d k with opData := [] } .opData 0 d = .ok (acceptPost s r m n d k) := by
    refine memWrite_eq_ok.mpr ⟨by rw [hd]; rfl, ?_⟩
    simp only [acceptPost, accept, dataMax, List.take_of_length_le hd.le]
    rfl
  have hread := memRead_memWrite_same hw
  rwa [hd] at hread

variable (hn : n.toNat ≤ 32)
include hn

theorem frameOf_length : (s.frameOf r m n d).length = 8 + n.toNat := encodeMsg_length _ _ _ _ _ _ _ (by omega)

/-- The posted state is one write to the transmit buffer away from the acceptance. -/
theorem memWrite_posted : memWrite { s.posted r m n d k with txBuf := s.txBuf } .tx 0 (s.frameOf r m n d) =
    .ok (s.posted r m n d k) := by
  refine memWrite_eq_ok.mpr ⟨?_, rfl⟩
  rw [frameOf_length s r m n hd hn]
  simp only [Space.size, frameMaxBytes]
  omega

theorem memRead_posted_tx : memRead (s.posted r m n d k) .tx 0 (8 + n.toNat) = .ok (s.frameOf r m n d) := by
  have hread := memRead_memWrite_same (memWrite_posted s r m n k hd hn)
  rwa [frameOf_length s r m n hd hn] at hread

/-- A POST_MESSAGE that passes its checks is at the start of its first attempt. -/
theorem exec_postMessage_begins (hgate : gateRunning s = none) :
    exec (.postMessage r m n d k) s = .next (s.posted r m n d k) := by
  have hg : gateRunning (acceptPost s r m n d k) = none := hgate
  obtain ⟨hfits, -⟩ := memWrite_eq_ok.mp (memWrite_posted s r m n k hd hn)
  have hread : memRead (acceptPost s r m n d k) .opData 0 (acceptPost s r m n d k).latch.opDataLen.toNat =
      .ok (d.take n.toNat) := memRead_take (memRead_acceptPost_opData s r m n k hd) hn
  have hframe : postFrame (acceptPost s r m n d k) (d.take n.toNat) = s.frameOf r m n d := encodeMsg_take ..
  have hwrite : memWrite (acceptPost s r m n d k) .tx 0 (s.frameOf r m n d) = .ok { acceptPost s r m n d k with
      txBuf := Memory.store s.txBuf 0 (s.frameOf r m n d) } := memWrite_eq_ok.mpr ⟨hfits, rfl⟩
  simp only [exec, execPostMessage, hg, dataMax, Nat.not_lt.mpr hn, if_false, buildFrame, hread, hframe, hwrite]
  exact startAttempt_eq (memRead_of_congr (memRead_posted_tx s r m n k hd hn) rfl rfl)

end

/-- Settles O45: the state of the first attempt, field by field and byte by byte. -/
theorem postBuildsTheFrame : Obligations.PostBuildsTheFrame := by
  intro s r m n d k hf he ht hd hn
  refine ⟨_, exec_postMessage_begins s r m n k hd hn (gateRunning_of_running hf he), rfl,
    memRead_posted_tx s r m n k hd hn, ?_, rfl, rfl, rfl, rfl, fun a ha => ?_, fun sp a htx hop => ?_⟩
  · exact memRead_of_congr (memRead_acceptPost_opData s r m n k hd) rfl rfl
  · rw [readByte_memWrite (memWrite_posted s r m n k hd hn), frameOf_length s r m n hd hn, if_neg (by omega)]
    exact readByte_congr rfl rfl
  · refine readByte_congr rfl ?_
    cases sp with
    | tx => exact absurd rfl htx
    | opData => exact absurd rfl hop
    | rx | ackb | page => rfl

/-! ## Broadcast -/

/-- After the transmit sequence of a broadcast the command succeeds (R186). -/
theorem step_afterTransmit_broadcast {s : State} {rest : List Act} (hr : s.resetPin = false)
    (ht : s.todo = .afterTransmit :: rest) (hb : s.latch.opRecipient = broadcastAddr) :
    step s = .next { s with
      engState := .receiving, busy := false, rsp := some ⟨true, .ok, .nothing⟩, todo := []
      hist := s.hist ++ [.response ⟨true, .ok, .nothing⟩] } := by
  rw [step_action hr ht rfl]
  exact congrArg Host.Outcome.next (if_pos hb)

/-- Settles O46: one transmit sequence, then the response. -/
theorem broadcastSucceedsAfterOneAttempt : Obligations.BroadcastSucceedsAfterOneAttempt := by
  intro s m n d k done armed more hr hf he ht hc hd hn hregs hdone harmed
  exact ⟨_, _, exec_postMessage_begins s 0 m n k hd hn (gateRunning_of_running hf he),
    run_add_of_run (j := 9) (k := 1) (run_transmitActs hr rfl hc hregs hdone harmed)
      (run_succ_of_step (step_afterTransmit_broadcast hr rfl rfl) (run_zero _)), rfl, rfl, rfl, rfl, rfl, rfl, rfl⟩

end Sys2Proof.Machine
end

section
/-! One pass of the attempt loop of POST_MESSAGE (42_delivery_engine.md R182, R187, R189): the transmit sequence, the window, the
poll cycle, and what the end of the pass decides. -/

namespace Sys2Proof.Machine

/-! ## The end of a pass -/

/-- The mark is consumed and the command succeeds. -/
theorem ackTest_of_seen {s : State} (h : s.ackSeen = true) :
    ackTest s = .next (finish { s with ackSeen := false, awaitValid := false } true .ok) := if_pos h

section
variable {s : State} {B : Bytes} (h : s.ackSeen = false)
include h

/-- Above the bound the command fails. -/
theorem ackTest_of_exhausted (hlt : s.latch.maxRetriesR < s.attempt + 1) :
    ackTest s = .next (fail { s with attempt := s.attempt + 1, awaitValid := false }
      (.deliveryFailure s.latch.opRecipient (s.attempt + 1)) .deliveryFail) := by
  simp only [ackTest, h, Bool.false_eq_true, if_false, hlt, if_true]

/-- Up to the bound the bytes of the transmit buffer are sent again. -/
theorem ackTest_of_retry (hle : s.attempt + 1 ≤ s.latch.maxRetriesR) (hB : memRead s .tx 0 s.txLen = .ok B) :
    ackTest s = .next { s with
      attempt := s.attempt + 1, engState := .transmitting, todo := transmitActs s.cfg B ++ [.afterTransmit] } := by
  simp only [ackTest, h, Bool.false_eq_true, if_false, Nat.not_lt.mpr hle]
  exact startAttempt_eq (memRead_of_congr hB rfl rfl)

end

section
variable {s : State} {rest : List Act} {ovf : Bool} {B : Bytes} (hr : s.resetPin = false)
  (ht : s.todo = .endCycle .post ovf :: rest)
include hr ht

theorem step_endCycle_post : step s = ackTest { s with engState := .receiving, todo := rest } := by
  rw [step_action hr ht rfl]
  rfl

theorem step_endCycle_post_of_seen (h : s.ackSeen = true) :
    step s = .next { s with
      engState := .receiving, ackSeen := false, awaitValid := false, busy := false, todo := []
      rsp := some ⟨true, .ok, .nothing⟩, hist := s.hist ++ [.response ⟨true, .ok, .nothing⟩] } :=
  (step_endCycle_post hr ht).trans (ackTest_of_seen h)

variable (h : s.ackSeen = false)
include h

theorem step_endCycle_post_of_exhausted (hlt : s.latch.maxRetriesR < s.attempt + 1) :
    step s = .next { s with
      engState := .receiving, attempt := s.attempt + 1, awaitValid := false, busy := false, todo := []
      rsp := some ⟨false, .deliveryFail, .nothing⟩
      hist := s.hist ++ [.raised (.deliveryFailure s.latch.opRecipient (s.attempt + 1)),
        .response ⟨false, .deliveryFail, .nothing⟩] } := by
  refine (step_endCycle_post hr ht).trans (Eq.trans (ackTest_of_exhausted h hlt) ?_)
  simp [respond, State.log]

theorem step_endCycle_post_of_retry (hle : s.attempt + 1 ≤ s.latch.maxRetriesR)
    (hB : memRead s .tx 0 s.txLen = .ok B) :
    step s = .next { s with
      engState := .transmitting, attempt := s.attempt + 1, todo := transmitActs s.cfg B ++ [.afterTransmit] } :=
  (step_endCycle_post hr ht).trans (ackTest_of_retry h hle (memRead_of_congr hB rfl rfl))

end

/-! ## The start of a poll cycle -/

/-- A line that is not asserted ends the cycle in the step that samples it (R211). -/
theorem step_pollCycle_low {s : State} {c : Caller} {rest : List Act} {more : List Bool} (hr : s.resetPin = false)
    (ht : s.todo = .pollCycle c :: rest) (hl : s.env.line = false :: more) :
    step s = step { s with
      todo := .endCycle c false :: rest, env := { s.env with line := more }, hist := s.hist ++ [.lineSample false] } := by
  rw [step_action hr ht rfl, step_action (rest := rest) (by exact hr) rfl rfl]
  simp [perform, pollCycle, sampleLine, hl]

/-- In POST_MESSAGE the pass then ends as it does after any poll cycle without an ACK. -/
theorem step_pollCycle_low_of_retry {s : State} {rest : List Act} {more : List Bool} {B : Bytes} (hr : s.resetPin = false)
    (ht : s.todo = .pollCycle .post :: rest) (hl : s.env.line = false :: more) (h : s.ackSeen = false)
    (hle : s.attempt + 1 ≤ s.latch.maxRetriesR) (hB : memRead s .tx 0 s.txLen = .ok B) :
    step s = .next { s with
      engState := .transmitting, attempt := s.attempt + 1, todo := transmitActs s.cfg B ++ [.afterTransmit]
      env := { s.env with line := more }, hist := s.hist ++ [.lineSample false] } := by
  rw [step_pollCycle_low hr ht hl]
  exact step_endCycle_post_of_retry hr rfl h hle (memRead_of_congr hB rfl rfl)

theorem step_pollCycle_low_of_exhausted {s : State} {rest : List Act} {more : List Bool} (hr : s.resetPin = false)
    (ht : s.todo = .pollCycle .post :: rest) (hl : s.env.line = false :: more) (h : s.ackSeen = false)
    (hlt : s.latch.maxRetriesR < s.attempt + 1) :
    step s = .next { s with
      engState := .receiving, attempt := s.attempt + 1, awaitValid := false, busy := false, todo := []
      rsp := some ⟨false, .deliveryFail, .nothing⟩, env := { s.env with line := more }
      hist := s.hist ++ [.lineSample false, .raised (.deliveryFailure s.latch.opRecipient (s.attempt + 1)),
        .response ⟨false, .deliveryFail, .nothing⟩] } := by
  refine (step_pollCycle_low hr ht hl).trans (Eq.trans (step_endCycle_post_of_exhausted hr rfl h hlt) ?_)
  simp

/-- A line that is asserted has the count of pending bytes read next. -/
theorem step_pollCycle_high {s : State} {c : Caller} {rest : List Act} {more : List Bool} (hr : s.resetPin = false)
    (ht : s.todo = .pollCycle c :: rest) (hl : s.env.line = true :: more) :
    step s = .next { s with
      todo := .issue (.readReg s.cfg.radio.regRxbytes) :: .rxCount c :: rest, env := { s.env with line := more }
      hist := s.hist ++ [.lineSample true] } := by
  rw [step_action hr ht rfl]
  simp [perform, pollCycle, sampleLine, hl, State.plan]

/-! ## A unicast attempt -/

theorem step_afterTransmit_unicast {s : State} {rest : List Act} (hr : s.resetPin = false)
    (ht : s.todo = .afterTransmit :: rest) (hu : s.latch.opRecipient ≠ broadcastAddr) :
    step s = .next { s with engState := .awaitingAck, todo := .wait :: .pollCycle .post :: rest } := by
  rw [step_action hr ht rfl]
  exact congrArg Host.Outcome.next (if_neg hu)

/-- The events of a pass with a radio that reports both states at the first reads, whose poll cycle finds the line not asserted. -/
def passEvents (c : Config) (B : Bytes) (done armed : Byte) : List Event :=
  transmitEvents c B done armed ++ [.wait 300, .lineSample false]

/-- A unicast POST_MESSAGE at the start of an attempt with the frame `B`, with no ACK seen and a radio that completes every
transaction. -/
structure Sending (s : State) (B : Bytes) : Prop where
  reset : s.resetPin = false
  todo : s.todo = transmitActs s.cfg B ++ [.afterTransmit]
  engine : s.engState = .transmitting
  completes : s.radioCompletes
  unicast : s.latch.opRecipient ≠ broadcastAddr
  frame : memRead s .tx 0 s.txLen = .ok B
  unseen : s.ackSeen = false

/-- The radio's answers that end both spins of an attempt at their first reads. -/
structure Prompt (s : State) (done armed : Byte) : Prop where
  done : awaitedState s .txDone done = true
  armed : awaitedState s .rxArmed armed = true

/-- An attempt transmits, waits, and is at its poll cycle. -/
theorem Sending.run_attempt {s : State} {B : Bytes} {done armed : Byte} {more : Bytes} (h : Sending s B)
    (hp : Prompt s done armed) (hregs : s.env.regs = done :: armed :: more) :
    run 11 s = .next { s with
      engState := .awaitingAck, todo := [.pollCycle .post], winTimer := 0, rdData := armed
      spinCount := if s.cfg.spinLimit.isSome then 0 else s.spinCount, env := { s.env with regs := more }
      hist := s.hist ++ transmitEvents s.cfg B done armed ++ [.wait 300] } := by
  refine run_add_of_run (j := 9) (k := 2) (run_transmitActs h.reset h.todo h.completes hregs hp.done hp.armed) ?_
  refine run_succ_of_step (step_afterTransmit_unicast h.reset rfl h.unicast) ?_
  exact run_succ_of_step (step_wait h.reset rfl) (run_zero _)

/-- A pass that sees no ACK, within the bound: the next attempt starts with the same frame. -/
theorem Sending.run_pass {s : State} {B : Bytes} {done armed : Byte} {more : Bytes} {moreLine : List Bool} (h : Sending s B)
    (hp : Prompt s done armed) (hregs : s.env.regs = done :: armed :: more) (hline : s.env.line = false :: moreLine)
    (hle : s.attempt + 1 ≤ s.latch.maxRetriesR) :
    ∃ t, run 12 s = .next t ∧ t = { s with
      attempt := s.attempt + 1, winTimer := 0, rdData := armed
      spinCount := if s.cfg.spinLimit.isSome then 0 else s.spinCount, env := { s.env with regs := more, line := moreLine }
      hist := s.hist ++ passEvents s.cfg B done armed } ∧ Sending t B := by
  refine ⟨_, run_add_of_run (j := 11) (k := 1) (h.run_attempt hp hregs) ?_, rfl,
    { h with frame := memRead_of_congr h.frame rfl rfl }⟩
  refine run_succ_of_step
    (step_pollCycle_low_of_retry h.reset rfl hline h.unseen hle (memRead_of_congr h.frame rfl rfl)) ?_
  simp [run_zero, passEvents, h.todo, h.engine]

/-- The state that passes without an ACK leave: each has counted and recorded an attempt, and taken its answers. -/
theorem Sending.run_passes {s : State} {B : Bytes} {done armed : Byte} {more : Bytes} {moreLine : List Bool} (j : Nat)
    (h : Sending s B) (hp : Prompt s done armed) (hregs : s.env.regs = (List.replicate j [done, armed]).flatten ++ more)
    (hline : s.env.line = List.replicate j false ++ moreLine) (hle : s.attempt + j ≤ s.latch.maxRetriesR) :
    ∃ u window read spins, run (12 * j) s = .next u ∧ u = { s with
      attempt := s.attempt + j, winTimer := window, rdData := read, spinCount := spins
      env := { s.env with regs := more, line := moreLine }
      hist := s.hist ++ (List.replicate j (passEvents s.cfg B done armed)).flatten } ∧ Sending u B := by
  induction j generalizing s with
  | zero =>
    refine ⟨s, s.winTimer, s.rdData, s.spinCount, run_zero s, ?_, h⟩
    simp only [List.replicate_zero, List.flatten_nil, List.nil_append] at hregs hline
    simp [← hregs, ← hline]
  | succ j ih =>
    obtain ⟨_, hpass, rfl, hsending⟩ := h.run_pass hp hregs hline (by omega)
    obtain ⟨u, window, read, spins, hrun, hu, husending⟩ := ih hsending ⟨hp.done, hp.armed⟩ rfl rfl (by simp only; omega)
    refine ⟨u, window, read, spins, ?_, ?_, husending⟩
    · rw [Nat.mul_succ, Nat.add_comm]
      exact run_add_of_run hpass hrun
    · rw [hu]
      simp [List.replicate_succ, Nat.add_assoc, Nat.add_comm 1]

/-- A pass that sees no ACK, above the bound: the command fails (R187). -/
theorem Sending.run_last_pass {s : State} {B : Bytes} {done armed : Byte} {more : Bytes} {moreLine : List Bool}
    (h : Sending s B) (hp : Prompt s done armed) (hregs : s.env.regs = done :: armed :: more)
    (hline : s.env.line = false :: moreLine) (hlt : s.latch.maxRetriesR < s.attempt + 1) :
    run 12 s = .next { s with
      engState := .receiving, attempt := s.attempt + 1, awaitValid := false, busy := false, todo := []
      rsp := some ⟨false, .deliveryFail, .nothing⟩, winTimer := 0, rdData := armed
      spinCount := if s.cfg.spinLimit.isSome then 0 else s.spinCount, env := { s.env with regs := more, line := moreLine }
      hist := s.hist ++ passEvents s.cfg B done armed ++
        [.raised (.deliveryFailure s.latch.opRecipient (s.attempt + 1)), .response ⟨false, .deliveryFail, .nothing⟩] } := by
  refine run_add_of_run (j := 11) (k := 1) (h.run_attempt hp hregs) ?_
  refine run_succ_of_step (step_pollCycle_low_of_exhausted h.reset rfl hline h.unseen hlt) ?_
  simp [run_zero, passEvents]

/-! ## The transmissions of a history -/

theorem attemptsIn_append (c : Config) (g h : List Event) : attemptsIn c (g ++ h) = attemptsIn c g + attemptsIn c h :=
  List.count_append

theorem attemptsIn_of_not_mem {c : Config} {g : List Event} (h : .strobe c.radio.strobeTx ∉ g) : attemptsIn c g = 0 :=
  List.count_eq_zero_of_not_mem h

theorem attemptsIn_flatten_replicate (c : Config) (j : Nat) (g : List Event) :
    attemptsIn c (List.replicate j g).flatten = j * attemptsIn c g := by
  induction j with
  | zero => simp [attemptsIn, occurrences]
  | succ j ih => rw [List.replicate_succ, List.flatten_cons, attemptsIn_append, ih, Nat.succ_mul, Nat.add_comm]

theorem strobeRx_ne_strobeTx {c : Config} (h : c.wf = true) : c.radio.strobeRx ≠ c.radio.strobeTx := by
  have hradio : c.radio.wf = true := by
    simp only [Config.wf, Bool.and_eq_true] at h
    exact h.2
  have hnodup : [c.radio.strobeTx, c.radio.strobeRx, c.radio.strobeFlushRx].Nodup := by
    simp only [RadioIds.wf, Bool.and_eq_true, decide_eq_true_eq] at hradio
    exact hradio.2
  exact fun heq => (List.nodup_cons.mp hnodup).1 (by simp [heq])

/-- A transmit sequence strobes transmit once: the strobes are distinct (R7). -/
theorem attemptsIn_transmitEvents {c : Config} (h : c.wf = true) (B : Bytes) (done armed : Byte) :
    attemptsIn c (transmitEvents c B done armed) = 1 := by
  simp [attemptsIn, occurrences, transmitEvents, strobeRx_ne_strobeTx h]

theorem attemptsIn_passEvents {c : Config} (h : c.wf = true) (B : Bytes) (done armed : Byte) :
    attemptsIn c (passEvents c B done armed) = 1 := by
  rw [passEvents, attemptsIn_append, attemptsIn_transmitEvents h, attemptsIn_of_not_mem (by simp)]

/-- Passes that see no ACK are a transmission each. -/
theorem attemptsIn_of_passes {c : Config} (hw : c.wf = true) (h : List Event) (B : Bytes) (done armed : Byte) (j : Nat) :
    attemptsIn c (h ++ [.accepted 3] ++ (List.replicate j (passEvents c B done armed)).flatten) = attemptsIn c h + j := by
  rw [attemptsIn_append, attemptsIn_append, attemptsIn_flatten_replicate, attemptsIn_passEvents hw,
    attemptsIn_of_not_mem (g := [.accepted 3]) (by simp), Nat.mul_one, Nat.add_zero]

/-! ## A unicast POST_MESSAGE without an ACK -/

/-- A unicast POST_MESSAGE that is not refused is at the start of its first attempt. -/
theorem sending_posted {s : State} {r m n : Byte} {d : Bytes} {k : Nat} (hr : s.resetPin = false) (hc : s.radioCompletes)
    (hu : r ≠ 0) (hd : d.length = 32) (hn : n.toNat ≤ 32) : Sending (s.posted r m n d k) (s.frameOf r m n d) where
  reset := hr
  todo := rfl
  engine := rfl
  completes := hc
  unicast := hu
  frame := memRead_posted_tx s r m n k hd hn
  unseen := rfl

/-- Settles O47: `k` passes within the bound, then the one above it. -/
theorem unacknowledgedPostMakesAllAttempts : Obligations.UnacknowledgedPostMakesAllAttempts := by
  intro s r m n d k done armed more moreLine hr hf he ht hc hu hd hn hdone harmed hregs hline
  have hsending := sending_posted (m := m) (k := k) hr hc hu hd hn
  obtain ⟨_, window, read, spins, hrun, rfl, hsent⟩ := hsending.run_passes k (more := done :: armed :: more)
    (moreLine := false :: moreLine) ⟨hdone, harmed⟩ (hregs.trans (by simp [List.replicate_succ']))
    (hline.trans (by simp [List.replicate_succ'])) (Nat.zero_add k).le
  have hlast := hsent.run_last_pass ⟨hdone, harmed⟩ rfl rfl (Nat.lt_succ_of_le (Nat.zero_add k).ge)
  have hhist (P : List Event) : (s.posted r m n d k).hist ++ (List.replicate k P).flatten ++ P ++
      [.raised (.deliveryFailure r (0 + k + 1)), .response ⟨false, .deliveryFail, .nothing⟩] =
      s.hist ++ [.accepted 3] ++ (List.replicate (k + 1) P).flatten ++
        [.raised (.deliveryFailure r (k + 1)), .response ⟨false, .deliveryFail, .nothing⟩] := by
    simp [List.replicate_succ']
  refine ⟨_, _, exec_postMessage_begins s r m n k hd hn (gateRunning_of_running hf he), run_add_of_run hrun hlast,
    rfl, rfl, rfl, rfl, rfl, congrArg (· + 1) (Nat.zero_add k), rfl, hhist _, fun hw => ?_⟩
  refine (congrArg (attemptsIn s.cfg) (hhist (passEvents s.cfg (s.frameOf r m n d) done armed))).trans ?_
  rw [attemptsIn_append, attemptsIn_of_passes hw]
  simp [attemptsIn_of_not_mem]

end Sys2Proof.Machine
end

section
/-! A poll cycle that reads a burst (43_reception.md R211, 41_codec.md R167), and the ACK that ends a unicast POST_MESSAGE in
success (R215, 42_delivery_engine.md R187, R189). -/

namespace Sys2Proof.Machine

/-! ## The actions of a poll cycle that reads a burst -/

section
variable {s : State} {rest : List Act} {c : Caller} {n : Nat} {cmd b : Byte} {B more moreFifo : Bytes} {moreLine : List Bool}
  (hr : s.resetPin = false)
include hr

/-- A count within the capacity, and not 0, has that many bytes read next (R141, R211). -/
theorem step_rxCount_bytes (ht : s.todo = .rxCount c :: rest) (hn : s.cfg.rxCountDecode s.rdData = (false, n))
    (h0 : n ≠ 0) (hcap : n ≤ s.cfg.fifoCap) :
    step s = .next { s with
      todo := .issue (.readBurst s.cfg.radio.cmdRxfifo n) :: .storeBurst :: .split :: .endCycle c false :: rest } := by
  rw [step_action hr ht rfl]
  simp [perform, rxCount, hn, countOverflows, Nat.not_lt.mpr hcap, h0, State.plan]

/-- A burst read whose bytes are scripted. -/
theorem step_readBurst (ht : s.todo = .issue (.readBurst cmd B.length) :: rest) (hc : s.radioCompletes)
    (hfifo : s.env.fifo = B ++ more) :
    step s = .next { s with
      todo := rest, rdBurst := B, env := { s.env with fifo := more }, tick := s.tick + B.length
      hist := s.hist ++ [.readBurst cmd B.length B] } := by
  refine (step_issue hr ht hc).trans ((exec_readBurst _ cmd B.length).trans ?_)
  simp [hfifo, burstBytes_append]

theorem step_storeBurst (ht : s.todo = .storeBurst :: rest) (hcap : s.rdBurst.length ≤ s.cfg.fifoCap) :
    step s = .next { s with
      todo := rest, rxBuf := Memory.store s.rxBuf 0 s.rdBurst, rxLen := s.rdBurst.length, rxOff := 0
      rxRem := s.rdBurst.length } := by
  have hw := memWrite_ok (s := { s with todo := rest }) (sp := .rx) (a := 0) (bs := s.rdBurst)
    (by rw [Nat.zero_add]; exact hcap)
  rw [step_action hr ht rfl]
  simp only [perform, storeBurst, hw]
  rfl

/-- The split loop ends where nothing remains (R167). -/
theorem step_split_end (ht : s.todo = .split :: rest) (hrem : s.rxRem ≤ 0) : step s = .next { s with todo := rest } := by
  rw [step_action hr ht rfl]
  exact if_pos hrem

/-- From the line sample to the start of the split loop. -/
theorem run_pollCycle_burst (ht : s.todo = .pollCycle c :: rest) (hc : s.radioCompletes)
    (hline : s.env.line = true :: moreLine) (hregs : s.env.regs = b :: more) (hfifo : s.env.fifo = B ++ moreFifo)
    (hlen : B.length = n) (hn : s.cfg.rxCountDecode b = (false, n)) (h0 : n ≠ 0) (hcap : n ≤ s.cfg.fifoCap) :
    run 5 s = .next { s with
      todo := .split :: .endCycle c false :: rest, tick := s.tick + n, rdData := b, rdBurst := B
      rxBuf := Memory.store s.rxBuf 0 B, rxLen := n, rxOff := 0, rxRem := n
      env := { s.env with line := moreLine, regs := more, fifo := moreFifo }
      hist := s.hist ++ [.lineSample true, .readReg s.cfg.radio.regRxbytes b,
        .readBurst s.cfg.radio.cmdRxfifo n B] } := by
  subst hlen
  refine run_succ_of_step (step_pollCycle_high hr ht hline) ?_
  refine run_succ_of_step (step_readReg hr rfl hc hregs) ?_
  refine run_succ_of_step (step_rxCount_bytes hr rfl hn h0 hcap) ?_
  refine run_succ_of_step (step_readBurst hr rfl hc hfifo) ?_
  refine run_succ_of_step (step_storeBurst hr rfl hcap) ?_
  simp [run_zero]

end

/-- A burst that fits the buffer is what is read from its start afterwards. -/
theorem memRead_rx_of_store {s t : State} {B : Bytes} {n : Nat} (hlen : B.length = n) (hcap : n ≤ s.cfg.fifoCap)
    (hc : t.cfg = s.cfg) (hm : t.rxBuf = Memory.store s.rxBuf 0 B) : memRead t .rx 0 n = .ok B := by
  subst hlen
  have hw := memWrite_ok (s := s) (sp := .rx) (a := 0) (bs := B) (by rw [Nat.zero_add]; exact hcap)
  exact memRead_of_congr (memRead_memWrite_same hw) hc hm

/-! ## The matched ACK -/

/-- A token-matching ACK for this node from the awaited sender sets the mark and does nothing else (R215). -/
theorem exec_frameAck_matched {s : State} (hv : s.awaitValid = true) :
    exec (.frameAck s.deviceAddress s.awaitAddr s.messageSignature) s = .next { s with ackSeen := true } := by
  simp [exec, execFrameAck, processFrame, classify, matchedAck, hv, State.plan]

/-- The ACK at the cursor, with its trailer the whole of what remains: the mark is set and the split loop ends. -/
theorem run_split_matchedAck {s : State} {rest : List Act} {x y : Byte} (hr : s.resetPin = false)
    (ht : s.todo = .split :: rest) (hpt : s.cfg.ptAck ≠ s.cfg.ptMsg) (hv : s.awaitValid = true) (hoff : s.rxOff = 0)
    (hrem : s.rxRem = 8)
    (hread : memRead s .rx 0 8 =
      .ok (encode s.cfg (.frameAck s.deviceAddress s.awaitAddr s.messageSignature) ++ [x, y])) :
    run 3 s = .next { s with todo := rest, ackSeen := true, rxOff := 8, rxRem := 0 } := by
  have hdecode : decodeOne s s.rxOff s.rxRem =
      .ok (.frame (.frameAck s.deviceAddress s.awaitAddr s.messageSignature), 8) := by
    rw [hoff, hrem]
    exact (decodeOneAcceptsExactlyFrames s 0 8 _ 8 hpt).mpr ⟨rfl, rfl, rfl, le_rfl, memRead_take hread (m := 6) (by omega)⟩
  refine run_succ_of_step ((step_frame hr ht (by omega) hdecode).trans (exec_frameAck_matched hv)) ?_
  refine run_succ_of_step (step_advance hr rfl) (run_succ_of_step (step_split_end hr rfl ?_) ?_)
  · simp [hrem]
  · simp [run_zero, hoff, hrem]

/-! ## A unicast POST_MESSAGE with an ACK -/

/-- The abstract queue is a matter of the queue's registers and pages alone. -/
theorem queueContents_congr {s t : State} (hc : t.cfg = s.cfg) (hp : t.pages = s.pages) (hn : t.nextLink = s.nextLink)
    (hh : t.head = s.head) (hk : t.count = s.count) : queueContents t = queueContents s := by
  have hwalk (n p : Nat) : walkFrom t n p = walkFrom s n p := by
    induction n generalizing p with
    | zero => rfl
    | succ n ih => simp only [walkFrom, ih, hn]
  simp only [queueContents, hwalk, hh, hk]
  exact List.map_congr_left fun p _ => pageOf_congr hc hp

/-- What R7 asks of the capacity and of the two type codes. -/
theorem Config.wf_frames {c : Config} (h : c.wf = true) : 42 ≤ c.fifoCap ∧ c.ptAck ≠ c.ptMsg := by
  simp only [Config.wf, Bool.and_eq_true, decide_eq_true_eq] at h
  obtain ⟨⟨⟨⟨hframes, -⟩, -⟩, -⟩, -⟩ := h
  exact hframes

/-- The pass that reads the ACK: the command succeeds, with the queue as it was. -/
theorem Sending.run_acknowledged {s : State} {B A : Bytes} {done armed b x y : Byte} {more moreFifo : Bytes}
    {moreLine : List Bool} (h : Sending s B) (hp : Prompt s done armed) (hw : s.cfg.wf = true) (hv : s.awaitValid = true)
    (hregs : s.env.regs = done :: armed :: b :: more) (hline : s.env.line = true :: moreLine)
    (hn : s.cfg.rxCountDecode b = (false, 8))
    (hA : A = encode s.cfg (.frameAck s.deviceAddress s.awaitAddr s.messageSignature))
    (hfifo : s.env.fifo = A ++ [x, y] ++ moreFifo) :
    run 20 s = .next { s with
      engState := .receiving, ackSeen := false, awaitValid := false, busy := false, todo := []
      rsp := some ⟨true, .ok, .nothing⟩, winTimer := 0, spinCount := if s.cfg.spinLimit.isSome then 0 else s.spinCount
      tick := s.tick + 8, rdData := b, rdBurst := A ++ [x, y], rxBuf := Memory.store s.rxBuf 0 (A ++ [x, y]), rxLen := 8
      rxOff := 8, rxRem := 0, env := { s.env with line := moreLine, regs := more, fifo := moreFifo }
      hist := s.hist ++ transmitEvents s.cfg B done armed ++ [.wait 300, .lineSample true,
        .readReg s.cfg.radio.regRxbytes b, .readBurst s.cfg.radio.cmdRxfifo 8 (A ++ [x, y]),
        .response ⟨true, .ok, .nothing⟩] } := by
  have hlen : (A ++ [x, y]).length = 8 := by rw [hA]; rfl
  obtain ⟨hfits, hpt⟩ := Config.wf_frames hw
  have hcap : 8 ≤ s.cfg.fifoCap := by omega
  refine run_add_of_run (j := 11) (k := 9) (h.run_attempt hp hregs) ?_
  refine run_add_of_run (j := 5) (k := 4)
    (run_pollCycle_burst h.reset rfl h.completes hline rfl hfifo hlen hn (by omega) hcap) ?_
  refine run_add_of_run (j := 3) (k := 1) (run_split_matchedAck (x := x) (y := y) h.reset rfl hpt hv rfl rfl ?_) ?_
  · rw [← hA]
    exact memRead_rx_of_store hlen hcap rfl rfl
  · refine run_succ_of_step (step_endCycle_post_of_seen h.reset rfl rfl) ?_
    simp [run_zero]

/-- Settles O48: the end of a pass by its three cases; and `j` passes without an ACK, then one that reads it. -/
theorem passEndsInSuccessRetryOrFailure : Obligations.PassEndsInSuccessRetryOrFailure := by
  refine ⟨fun s ovf hr ht hs => step_endCycle_post_of_seen hr ht hs, fun s ovf hr ht hs =>
    ⟨fun hlt => step_endCycle_post_of_exhausted hr ht hs hlt, fun B hle hB => step_endCycle_post_of_retry hr ht hs hle hB⟩,
    ?_⟩
  intro s r m n d k j done armed b A x y more moreLine moreFifo hr hf he ht hc hw hu hd hn hj hdone harmed hregs hline hcount
    hA hfifo
  have hsending := sending_posted (m := m) (k := k) hr hc hu hd hn
  obtain ⟨_, window, read, spins, hrun, rfl, hsent⟩ := hsending.run_passes j (more := done :: armed :: b :: more)
    (moreLine := true :: moreLine) ⟨hdone, harmed⟩ (hregs.trans (by simp [List.replicate_succ'])) hline
    ((Nat.zero_add j).trans_le hj)
  have hlast := hsent.run_acknowledged (x := x) (y := y) (moreFifo := moreFifo) ⟨hdone, harmed⟩ hw (decide_eq_true hu)
    rfl rfl hcount hA (hfifo.trans (by simp))
  refine ⟨_, _, exec_postMessage_begins s r m n k hd hn (gateRunning_of_running hf he), run_add_of_run hrun hlast,
    rfl, rfl, rfl, rfl, rfl, Nat.zero_add j, rfl, queueContents_congr rfl rfl rfl rfl rfl, rfl, ?_⟩
  change attemptsIn s.cfg (s.hist ++ [.accepted 3] ++
    (List.replicate j (passEvents s.cfg (s.frameOf r m n d) done armed)).flatten ++
    transmitEvents s.cfg (s.frameOf r m n d) done armed ++ _) = _
  rw [attemptsIn_append, attemptsIn_append, attemptsIn_of_passes hw, attemptsIn_transmitEvents hw]
  simp [attemptsIn_of_not_mem, Nat.add_assoc]

end Sys2Proof.Machine
end

section
/-! A received frame by the verdicts of Classify (43_reception.md R213 to R219): discarded, marked, passed on, or answered with
one ACK before it is passed on. -/

namespace Sys2Proof.Machine

/-! ## ProcessFrame, verdict by verdict -/

theorem matchedAck_iff {s : State} {r sd : Byte} :
    matchedAck s r sd = true ↔ r = s.deviceAddress ∧ s.awaitValid = true ∧ sd = s.awaitAddr := by
  simp [matchedAck, and_assoc]

theorem processFrame_wrongToken {s : State} {tok : Half} (h : tok ≠ s.messageSignature) (isMsg : Bool) (r sd : Byte)
    (page : Bytes) : processFrame s isMsg r sd tok page = .next (s.raise (.tokenMismatch tok)) := if_pos h

section
variable {s : State} {isMsg : Bool} {r sd : Byte} {page : Bytes} (h : ¬ (isMsg = false ∧ matchedAck s r sd = true))
include h

/-- The verdicts on a token-matching frame that is no matched ACK (R219). -/
theorem classify_of_not_matched : classify s isMsg r sd s.messageSignature =
    ⟨false, if r ≠ broadcastAddr ∧ (isMsg || s.cfg.replyToUnmatchedAck) = true then some sd else none, isMsg⟩ := by
  have hm : (!isMsg && matchedAck s r sd) = false := by simpa using h
  simp only [classify, hm, ne_eq, not_true_eq_false, if_false, Bool.false_eq_true]

theorem processFrame_unanswered (hno : ¬ (r ≠ broadcastAddr ∧ (isMsg || s.cfg.replyToUnmatchedAck) = true)) :
    processFrame s isMsg r sd s.messageSignature page = .next (s.plan (if isMsg then [.enqueue page sd] else [])) := by
  simp only [processFrame, classify_of_not_matched h, hno, ne_eq, not_true_eq_false, if_false, Bool.false_eq_true]

theorem processFrame_answered (hb : r ≠ broadcastAddr) (hreply : (isMsg || s.cfg.replyToUnmatchedAck) = true) :
    processFrame s isMsg r sd s.messageSignature page = sendAck s sd (if isMsg then [.enqueue page sd] else []) := by
  simp only [processFrame, classify_of_not_matched h, hb, hreply, ne_eq, not_true_eq_false, not_false_eq_true, and_self,
    if_true, if_false, Bool.false_eq_true]

end

/-- Nothing but a matched ACK writes the mark (R215). -/
theorem processFrame_keeps_ackSeen {s t : State} {isMsg : Bool} {r sd : Byte} {tok : Half} {page : Bytes}
    (h : processFrame s isMsg r sd tok page = .next t)
    (hno : ¬ (tok = s.messageSignature ∧ isMsg = false ∧ matchedAck s r sd = true)) : t.ackSeen = s.ackSeen := by
  obtain ⟨u, hu, hcases⟩ := processFrame_eq s isMsg r sd tok page
  obtain rfl : u = t := by simpa [hu] using h
  rcases hcases with ⟨-, rfl⟩ | ⟨htok, hack, hm, -⟩ | ⟨-, -, _, -, rfl | ⟨-, rfl⟩⟩
  · rfl
  · exact absurd ⟨htok, hack, hm⟩ hno
  · rfl
  · rfl

/-! ## Frames that are not answered -/

/-- Settles O31: the token is tested first, for either kind of frame. -/
theorem wrongTokenIsDiscarded : Obligations.WrongTokenIsDiscarded := fun _ r sd _ h =>
  ⟨processFrame_wrongToken h false r sd _, fun _ _ => processFrame_wrongToken h true r sd _⟩

/-- Settles O32: of all verdicts only that on a matched ACK sets the mark. -/
theorem matchedAckSetsTheMark : Obligations.MatchedAckSetsTheMark := by
  refine ⟨?_, fun s t r sd tok hno h => ?_, fun s t r sd tok m d h => ?_⟩
  · rintro s _ _ _ rfl rfl hv rfl
    exact exec_frameAck_matched hv
  · exact processFrame_keeps_ackSeen h fun ⟨htok, _, hm⟩ => hno ⟨htok, matchedAck_iff.mp hm⟩
  · exact processFrame_keeps_ackSeen h fun ⟨_, hack, _⟩ => nomatch hack

/-- A token-matching MSG frame to broadcast has its page pushed next, without an ACK (R216, R218). -/
theorem exec_frameMsg_broadcast (s : State) (sd m : Byte) (d : Bytes) :
    exec (.frameMsg 0 sd s.messageSignature m d) s = .next { s with
      todo := .enqueue (pageImage s.cfg 0 sd s.messageSignature m d) sd :: s.todo } :=
  processFrame_unanswered (fun h => nomatch h.1) fun h => h.1 rfl

/-- Settles O33: no frame to broadcast is answered, and no ACK where replies are off. -/
theorem unansweredFrames : Obligations.UnansweredFrames := by
  constructor
  · rintro s r sd _ rfl hno hquiet
    refine processFrame_unanswered (fun h => hno (matchedAck_iff.mp h.2)) ?_
    rintro ⟨hb, hreply⟩
    rcases hquiet with hzero | hoff
    · exact hb hzero
    · exact nomatch hoff.symm.trans hreply
  · rintro s sd _ m d rfl
    exact exec_frameMsg_broadcast s sd m d

/-- Settles O36: an ACK frame adds no action, or a transmit sequence. -/
theorem ackIsNeverEnqueued : Obligations.AckIsNeverEnqueued := by
  intro s t r sd tok page sender h hmem
  obtain ⟨u, hu, hcases⟩ := processFrame_eq s false r sd tok []
  obtain rfl : u = t := by simpa [hu] using (show processFrame s false r sd tok [] = .next t from h)
  rcases hcases with ⟨-, rfl⟩ | ⟨-, -, -, rfl⟩ | ⟨-, -, pushes, rfl, rfl | ⟨-, rfl⟩⟩
  · exact hmem
  · exact hmem
  · exact hmem
  · simpa [transmitActs, armReceive] using hmem

/-! ## Frames that are answered -/

theorem step_receiving {s : State} {rest : List Act} (hr : s.resetPin = false) (ht : s.todo = .receiving :: rest) :
    step s = .next { s with engState := .receiving, todo := rest } := by
  rw [step_action hr ht rfl]
  rfl

/-- SendAck with a radio that reports both states at the first reads (R217): the ACK frame is built in `ackBuf` and transmitted
once, and what was to follow it comes next. -/
theorem run_sendAck {s : State} {dest done armed : Byte} {more : Bytes} (andThen : List Act) (hr : s.resetPin = false)
    (hc : s.radioCompletes) (hregs : s.env.regs = done :: armed :: more) (hp : Prompt s done armed) :
    ∃ t u, sendAck s dest andThen = .next t ∧ t.engState = .transmitting ∧ t.count = s.count ∧ run 10 t = .next u ∧
      u = { s with
        engState := .receiving, ackBuf := u.ackBuf, rdData := armed, spinCount := u.spinCount, todo := andThen ++ s.todo
        env := { s.env with regs := more }, hist := s.hist ++ transmitEvents s.cfg (ackFrame s dest) done armed } ∧
      memRead u .ackb 0 6 = .ok (ackFrame s dest) := by
  obtain ⟨t, hsend, rfl⟩ := sendAck_eq s dest andThen
  refine ⟨_, _, hsend, rfl, rfl, run_add_of_run (j := 9) (k := 1)
    (run_transmitActs hr (List.append_assoc ..) hc hregs hp.done hp.armed)
    (run_succ_of_step (step_receiving hr rfl) (run_zero _)), rfl, ?_⟩
  have hw : memWrite s .ackb 0 (ackFrame s dest) = .ok _ := memWrite_ok (Nat.le_refl 6)
  exact memRead_of_congr (memRead_memWrite_same hw) rfl rfl

/-- Settles O34: the ACK is all that an unmatched ACK leads to. -/
theorem unmatchedAckIsAnswered : Obligations.UnmatchedAckIsAnswered := by
  rintro s r sd _ done armed more hr hc rfl hno hb hreply hregs hdone harmed
  have hexec : exec (.frameAck r sd s.messageSignature) s = sendAck s sd [] :=
    processFrame_answered (fun h => hno (matchedAck_iff.mp h.2)) hb hreply
  obtain ⟨t, u, hsend, htx, -, hrun, hu, hread⟩ := run_sendAck (dest := sd) [] hr hc hregs ⟨hdone, harmed⟩
  exact ⟨t, u, hexec.trans hsend, htx, hrun, hu, hread⟩

/-- Settles O35: the push is what follows the ACK. -/
theorem messageIsAcknowledgedThenPushed : Obligations.MessageIsAcknowledgedThenPushed := by
  rintro s r sd _ m d done armed more hr hc rfl hb hregs hdone harmed
  have hexec : exec (.frameMsg r sd s.messageSignature m d) s =
      sendAck s sd [.enqueue (pageImage s.cfg r sd s.messageSignature m d) sd] :=
    processFrame_answered (fun h => nomatch h.1) hb rfl
  obtain ⟨t, u, hsend, hrest⟩ := run_sendAck (dest := sd) _ hr hc hregs ⟨hdone, harmed⟩
  exact ⟨t, u, hexec.trans hsend, hrest⟩

end Sys2Proof.Machine
end

section
/-! POLL from its acceptance to its response, and the poll cycles without a burst (43_reception.md R210 to R212). -/

namespace Sys2Proof.Machine

/-! ## POLL as the start of a poll cycle -/

/-- The first step of a run that goes on. -/
theorem step_of_run_succ {s u : State} {k : Nat} (h : run (k + 1) s = .next u) :
    ∃ t, step s = .next t ∧ run k t = .next u := by
  cases hs : step s with
  | next t => exact ⟨t, rfl, (run_step hs k).symm.trans h⟩
  | fault f => simp [run, Host.Core.run, show Sys2Proof.core.step s = .fault f from hs] at h
  | refused e => simp [run, Host.Core.run, show Sys2Proof.core.step s = .refused e from hs] at h

theorem exec_poll_begins {s : State} (hf : s.fault = false) (he : s.engState ≠ .idle) :
    exec .poll s = pollCycle (acceptBare s opPoll) .poll := by
  have hgate : gateRunning (acceptBare s opPoll) = none := gateRunning_of_running hf he
  simp only [exec, execPoll, hgate]

/-- A POLL just accepted, with its poll cycle still to begin. -/
def State.polling (s : State) : State := { acceptBare s opPoll with todo := [.pollCycle .poll] }

theorem acceptBare_hist (s : State) (op : BitVec 3) : (acceptBare s op).hist = s.hist ++ [.accepted op] := rfl

theorem State.polling_hist (s : State) : s.polling.hist = s.hist ++ [.accepted opPoll] := rfl

/-- A POLL that is not refused makes the first step of its poll cycle where it is accepted. -/
theorem exec_poll_of_run {s u : State} {k : Nat} (hr : s.resetPin = false) (hf : s.fault = false) (he : s.engState ≠ .idle)
    (ht : s.todo = []) (h : run (k + 1) s.polling = .next u) : ∃ t, exec .poll s = .next t ∧ run k t = .next u := by
  obtain ⟨t, hstep, hrun⟩ := step_of_run_succ h
  refine ⟨t, ?_, hrun⟩
  rw [← hstep, exec_poll_begins hf he, step_action (s := s.polling) hr rfl rfl]
  simp [perform, State.polling, acceptBare, accept, ht]

/-! ## The end of POLL -/

/-- What POLL answers at the end of its cycle (R210, R212). -/
def State.pollAnswer (s : State) (overflow : Bool) : Rsp :=
  if overflow then ⟨false, .rxOverflow, .nothing⟩ else ⟨decide (s.count ≠ 0), .ok, .nothing⟩

theorem endCycle_poll (s : State) (overflow : Bool) :
    endCycle s .poll overflow = .next (respond (s.enter .receiving) (s.pollAnswer overflow)) := by
  cases overflow with
  | true => rfl
  | false =>
    have hq : (!s.qEmpty) = decide (s.count ≠ 0) := by simp [State.qEmpty, ← beq_eq_decide]
    exact congrArg (fun ok => Host.Outcome.next (respond (s.enter .receiving) ⟨ok, .ok, .nothing⟩)) hq

theorem step_endCycle_poll {s : State} {rest : List Act} {overflow : Bool} (hr : s.resetPin = false)
    (ht : s.todo = .endCycle .poll overflow :: rest) :
    step s = .next { s with
      engState := .receiving, busy := false, rsp := some (s.pollAnswer overflow), todo := []
      hist := s.hist ++ [.response (s.pollAnswer overflow)] } := by
  rw [step_action hr ht rfl]
  exact endCycle_poll _ overflow

/-! ## A line that is not asserted, and a count of 0 -/

theorem pollCycle_low {s : State} {more : List Bool} (hline : s.env.line = false :: more) (c : Caller) :
    pollCycle s c =
      endCycle { s with env := { s.env with line := more }, hist := s.hist ++ [.lineSample false] } c false := by
  simp [pollCycle, sampleLine, hline]

section
variable {s : State} {rest : List Act} {c : Caller} (hr : s.resetPin = false)
include hr

/-- A count of 0 empties the receive buffer and ends the cycle (R211). -/
theorem step_rxCount_zero (ht : s.todo = .rxCount c :: rest) (hn : s.cfg.rxCountDecode s.rdData = (false, 0)) :
    step s = .next { s with todo := .endCycle c false :: rest, rxLen := 0, rxOff := 0, rxRem := 0 } := by
  rw [step_action hr ht rfl]
  simp [perform, rxCount, hn, countOverflows, State.plan]

theorem run_pollCycle_empty {moreLine : List Bool} {b : Byte} {more : Bytes} (ht : s.todo = .pollCycle c :: rest)
    (hc : s.radioCompletes) (hline : s.env.line = true :: moreLine) (hregs : s.env.regs = b :: more)
    (hn : s.cfg.rxCountDecode b = (false, 0)) :
    run 3 s = .next { s with
      todo := .endCycle c false :: rest, rdData := b, rxLen := 0, rxOff := 0, rxRem := 0
      env := { s.env with line := moreLine, regs := more }
      hist := s.hist ++ [.lineSample true, .readReg s.cfg.radio.regRxbytes b] } := by
  refine run_succ_of_step (step_pollCycle_high hr ht hline) ?_
  refine run_succ_of_step (step_readReg hr rfl hc hregs) (run_succ_of_step (step_rxCount_zero hr rfl hn) ?_)
  simp [run_zero]

end

/-- Settles O27: either way no burst is read, and the cycle is at its end. -/
theorem pollWithoutBurst : Obligations.PollWithoutBurst := by
  refine ⟨fun s more hf he hline => ?_, fun s moreLine b more hr hf he ht hc hline hregs hn => ?_,
    fun s rest more hr ht hline => step_pollCycle_low hr ht hline,
    fun s rest moreLine b more hr ht hc hline hregs hn => run_pollCycle_empty hr ht hc hline hregs hn⟩
  · have hcycle := (pollCycle_low (s := acceptBare s opPoll) hline .poll).trans (endCycle_poll _ false)
    refine ⟨_, (exec_poll_begins hf he).trans hcycle, ?_⟩
    simp only [respond, State.enter_hist, acceptBare_hist, List.append_assoc]
    rfl
  · have hrun : run 4 s.polling = .next _ :=
      run_add_of_run (j := 3) (k := 1) (run_pollCycle_empty (s := s.polling) hr rfl hc hline hregs hn)
        (run_succ_of_step (step_endCycle_poll (by exact hr) rfl) (run_zero _))
    obtain ⟨t, hexec, hrest⟩ := exec_poll_of_run hr hf he ht hrun
    refine ⟨t, _, hexec, hrest, ?_⟩
    simp only [State.polling_hist, List.append_assoc]
    rfl

/-! ## An overflow -/

/-- FlushRearm (R140) with a radio that reports receive-armed at the first read. -/
theorem run_flushRearm {s : State} {rest : List Act} {armed : Byte} {more : Bytes} (hr : s.resetPin = false)
    (ht : s.todo = flushRearm s.cfg ++ rest) (hc : s.radioCompletes) (hregs : s.env.regs = armed :: more)
    (harmed : awaitedState s .rxArmed armed = true) :
    run 5 s = .next { s with
      todo := rest, rdData := armed, spinCount := if s.cfg.spinLimit.isSome then 0 else s.spinCount
      env := { s.env with regs := more }
      hist := s.hist ++ [.strobe s.cfg.radio.strobeFlushRx, .strobe s.cfg.radio.strobeRx,
        .readReg s.cfg.radio.regMarcstate armed] } := by
  refine run_succ_of_step (step_strobe hr ht hc) (Eq.trans (run_armReceive hr rfl hc hregs harmed) ?_)
  simp

section
variable {s : State} {rest : List Act} {c : Caller} {ovf : Bool} {n : Nat} (hr : s.resetPin = false)
  (hover : ovf = true ∨ s.cfg.fifoCap < n)
include hr hover

theorem step_rxCount_overflow (ht : s.todo = .rxCount c :: rest) (hn : s.cfg.rxCountDecode s.rdData = (ovf, n)) :
    step s = .next { s with
      todo := flushRearm s.cfg ++ .endCycle c true :: rest, hist := s.hist ++ [.raised (.rxOverflow ovf n)] } := by
  have hcount : countOverflows { s with todo := rest } ovf n = true := by simpa [countOverflows] using hover
  rw [step_action hr ht rfl]
  simp [perform, rxCount, hn, hcount, State.plan, State.log]

theorem run_pollCycle_overflow {moreLine : List Bool} {b armed : Byte} {more : Bytes} (ht : s.todo = .pollCycle c :: rest)
    (hc : s.radioCompletes) (hline : s.env.line = true :: moreLine) (hregs : s.env.regs = b :: armed :: more)
    (hn : s.cfg.rxCountDecode b = (ovf, n)) (harmed : awaitedState s .rxArmed armed = true) :
    run 8 s = .next { s with
      todo := .endCycle c true :: rest, rdData := armed
      spinCount := if s.cfg.spinLimit.isSome then 0 else s.spinCount, env := { s.env with line := moreLine, regs := more }
      hist := s.hist ++ [.lineSample true, .readReg s.cfg.radio.regRxbytes b, .raised (.rxOverflow ovf n),
        .strobe s.cfg.radio.strobeFlushRx, .strobe s.cfg.radio.strobeRx, .readReg s.cfg.radio.regMarcstate armed] } := by
  refine run_succ_of_step (step_pollCycle_high hr ht hline) ?_
  refine run_succ_of_step (step_readReg hr rfl hc hregs) (run_succ_of_step (step_rxCount_overflow hr hover rfl hn) ?_)
  refine Eq.trans (run_flushRearm hr rfl hc rfl harmed) ?_
  simp

end

/-- Settles O28: either caller's cycle flushes and re-arms, and POLL then answers for the overflow whatever the queue holds. -/
theorem pollOverflowFlushes : Obligations.PollOverflowFlushes := by
  constructor
  · intro s moreLine b armed more hr hf he ht hc hline hregs hover harmed
    have hrun : run 9 s.polling = .next _ :=
      run_add_of_run (j := 8) (k := 1) (run_pollCycle_overflow (s := s.polling) hr hover rfl hc hline hregs rfl harmed)
        (run_succ_of_step (step_endCycle_poll (by exact hr) rfl) (run_zero _))
    obtain ⟨t, hexec, hrest⟩ := exec_poll_of_run hr hf he ht hrun
    refine ⟨t, _, hexec, hrest, ?_⟩
    simp only [State.polling_hist, List.append_assoc]
    rfl
  · intro s rest moreLine b armed more hr ht hc hline hregs hover harmed
    exact ⟨_, run_pollCycle_overflow hr hover ht hc hline hregs rfl harmed, rfl⟩

end Sys2Proof.Machine
end

section
/-! A poll cycle that reads a burst (43_reception.md R211, R212), the split loop over it (41_codec.md R167), and a whole POLL that
queues a message to broadcast (R210, R218). -/

namespace Sys2Proof.Machine

/-! ## The burst in the receive buffer -/

/-- Storing a burst writes its own bytes of the receive buffer and leaves those behind it (R26, R211). -/
theorem rx_of_store {s t : State} {B : Bytes} (hcap : B.length ≤ s.cfg.fifoCap) (hc : t.cfg = s.cfg)
    (hm : t.rxBuf = Memory.store s.rxBuf 0 B) :
    memRead t .rx 0 B.length = .ok B ∧ ∀ a, B.length ≤ a → readByte t .rx a = readByte s .rx a := by
  refine ⟨memRead_rx_of_store rfl hcap hc hm, fun a ha => ?_⟩
  have hw := memWrite_ok (s := s) (sp := .rx) (a := 0) (bs := B) (by rw [Nat.zero_add]; exact hcap)
  have hbyte := readByte_memWrite hw .rx a
  rw [if_neg (by omega)] at hbyte
  rw [← hbyte]
  exact readByte_congr hc hm

/-! ## Push with room in the queue -/

theorem Ring.exists_freePage {s : State} {ring : List Nat} (h : Ring s ring) (hroom : s.count < 20) :
    ∃ p, freePage s = some p := by
  refine Option.ne_none_iff_exists'.mp fun hnone => ?_
  have hfull : s.count = 20 := h.count.trans (h.length_eq_iff.mpr (h.freePage_eq_none.mp hnone))
  omega

theorem QueueOk.push_of_room {s : State} {P : Bytes} (h : QueueOk s) (hroom : s.count < 20) (hP : P.length = pageBytes) :
    ∃ t, Machine.push s P = .ok (true, t) := by
  obtain ⟨ring, hring⟩ := h
  obtain ⟨p, hp⟩ := hring.exists_freePage hroom
  have hlt : p < queuePages := (hring.freePage_not_mem hp).1
  have hw := memWrite_ok (s := s) (sp := .page p) (a := 0) (bs := P) (by simp [Space.size, hlt, hP])
  have hne : s.count ≠ queuePages := hroom.ne
  simp only [Machine.push, hne, if_false, hp, hw]
  exact ⟨_, rfl⟩

theorem push_count {s t : State} {P : Bytes} (h : push s P = .ok (true, t)) : t.count = s.count + 1 := by
  rcases push_cases h with ⟨e, -⟩ | ⟨p, u, -, -, -, hw, rfl⟩
  · cases e
  · obtain ⟨-, rfl⟩ := memWrite_eq_ok.mp hw
    exact linkPage_count _ p

/-- A page of the ring keeps its bytes where another page is written. -/
theorem pageOf_memWrite_other {s t : State} {p q : Nat} {P Q : Bytes} (hw : memWrite s (.page p) 0 P = .ok t) (hne : q ≠ p)
    (hq : memRead s (.page q) 0 pageBytes = .ok Q) : pageOf t q = pageOf s q := by
  have hread : memRead t (.page q) 0 pageBytes = .ok Q := by
    obtain ⟨hlen, hbytes⟩ := memRead_eq_ok.mp hq
    refine memRead_eq_ok.mpr ⟨hlen, fun k hk => ?_⟩
    rw [readByte_memWrite hw, if_neg (by rintro ⟨e, -⟩; cases e; exact hne rfl)]
    exact hbytes k hk
  simp only [pageOf, hq, hread]

/-- Push appends to the abstract queue (R241, R245). -/
theorem queueContents_push {s t : State} {P : Bytes} (h : QueueOk s) (hP : P.length = pageBytes)
    (hn : (P.getD 7 0).toNat ≤ dataMax) (ht : push s P = .ok (true, t)) : queueContents t = queueContents s ++ [P] := by
  obtain ⟨ring, hring⟩ := h
  obtain ⟨p, hp, hring'⟩ := hring.push hP hn ht
  rcases push_cases ht with ⟨e, -⟩ | ⟨p', u, -, -, hp', hw, rfl⟩
  · cases e
  obtain rfl : p = p' := Option.some.inj (hp.symm.trans hp')
  have hnew : p ∉ ring := (hring.freePage_not_mem hp).2
  have hpages (q : Nat) : pageOf (linkPage u p) q = pageOf u q := pageOf_congr (linkPage_cfg u p) (linkPage_pages u p)
  rw [hring'.queueContents, hring.queueContents, List.map_append, List.map_singleton]
  congr 1
  · refine List.map_congr_left fun q hq => ?_
    obtain ⟨Q, hQ, -⟩ := hring.full q hq
    exact (hpages q).trans (pageOf_memWrite_other hw (fun e => hnew (e ▸ hq)) hQ)
  · have hread := memRead_memWrite_same hw
    rw [hP] at hread
    rw [hpages, pageOf, hread]

/-- The push of a page, where the queue has room: only the queue changes, and the page is the last of it (R213 step 6). -/
theorem step_enqueue {s : State} {rest : List Act} {page : Bytes} {sd : Byte} (hr : s.resetPin = false)
    (ht : s.todo = .enqueue page sd :: rest) (hq : QueueOk s) (hroom : s.count < 20) (hP : page.length = pageBytes)
    (hn : (page.getD 7 0).toNat ≤ dataMax) :
    ∃ t pages occupied links head tail, step s = .next t ∧ t = { s with
      todo := rest, pages := pages, occupied := occupied, nextLink := links, head := head, tail := tail
      count := s.count + 1 } ∧ queueContents t = queueContents s ++ [page] := by
  have hq' : QueueOk { s with todo := rest } := hq.congr rfl rfl rfl rfl rfl rfl rfl
  obtain ⟨t, hpush⟩ := hq'.push_of_room hroom hP
  refine ⟨t, t.pages, t.occupied, t.nextLink, t.head, t.tail, ?_, ?_, ?_⟩
  · rw [step_action hr ht rfl]
    simp only [perform, enqueue, hpush]
  · have hframe := push_frame hpush
    rwa [push_count hpush] at hframe
  · rw [queueContents_push hq' hP hn hpush]
    exact congrArg (· ++ [page]) (queueContents_congr rfl rfl rfl rfl rfl)

/-! ## A message to broadcast in the burst -/

section
variable {s : State} {rest : List Act} {sd m x y : Byte} {d : Bytes}

/-- A MSG frame that is all of the burst but for the trailer is what DecodeOne finds there (R164). -/
theorem decodeOne_frameMsg {r : Byte} {tok : Half} {rem : Int} (hpt : s.cfg.ptAck ≠ s.cfg.ptMsg) (hd : d.length ≤ 32)
    (hrem : rem = ((8 + d.length + 2 : Nat) : Int))
    (hread : memRead s .rx 0 (8 + d.length + 2) = .ok (encode s.cfg (.frameMsg r sd tok m d) ++ [x, y])) :
    decodeOne s 0 rem = .ok (.frame (.frameMsg r sd tok m d), 8 + d.length + 2) := by
  have hwf : Instr.wf s.cfg (.frameMsg r sd tok m d) = true := decide_eq_true hd
  have hlen : (encode s.cfg (.frameMsg r sd tok m d)).length = 8 + d.length :=
    Laws.EncodeLength.frameMsg r sd tok m d s.cfg hwf
  refine (decodeOneAcceptsExactlyFrames s 0 rem _ _ hpt).mpr ⟨rfl, hwf, by rw [hlen], hrem.ge, ?_⟩
  have htake := memRead_take hread (m := 8 + d.length) (by omega)
  rwa [← hlen, List.take_left] at htake

/-- A token-matching MSG frame to broadcast, all of the burst but for the trailer: its page is queued without an ACK, and the
split loop ends. -/
theorem run_split_broadcastMsg (hr : s.resetPin = false) (hpt : s.cfg.ptAck ≠ s.cfg.ptMsg) (hq : QueueOk s)
    (hroom : s.count < 20) (hd : d.length ≤ 32) (ht : s.todo = .split :: rest) (hoff : s.rxOff = 0)
    (hrem : s.rxRem = ((8 + d.length + 2 : Nat) : Int))
    (hread : memRead s .rx 0 (8 + d.length + 2) =
      .ok (encode s.cfg (.frameMsg 0 sd s.messageSignature m d) ++ [x, y])) :
    ∃ u pages occupied links head tail, run 4 s = .next u ∧ u = { s with
      todo := rest, rxOff := 8 + d.length + 2, rxRem := 0, pages := pages, occupied := occupied, nextLink := links
      head := head, tail := tail, count := s.count + 1 } ∧
      queueContents u = queueContents s ++ [pageImage s.cfg 0 sd s.messageSignature m d] := by
  have hdecode := decodeOne_frameMsg hpt hd hrem hread
  rw [← hoff] at hdecode
  have hframe := (step_frame hr ht (by omega) hdecode).trans (exec_frameMsg_broadcast _ sd m d)
  obtain ⟨_, pages, occupied, links, head, tail, hstep, rfl, hcontents⟩ :=
    step_enqueue (s := { s with
      todo := .enqueue (pageImage s.cfg 0 sd s.messageSignature m d) sd :: .advance (8 + d.length + 2) :: .split :: rest })
      hr rfl (hq.congr rfl rfl rfl rfl rfl rfl rfl) hroom
      (pageImage_length s.cfg 0 sd s.messageSignature m hd)
      (by rw [pageImage_dataLen, toNat_ofNat_length hd]; exact hd)
  refine ⟨_, pages, occupied, links, head, tail, run_succ_of_step hframe (run_succ_of_step hstep
    (run_succ_of_step (step_advance hr rfl) (run_succ_of_step (step_split_end hr rfl ?_) (run_zero _)))), ?_, ?_⟩
  · simp [hrem]
  · simp [hoff, hrem]
  · refine Eq.trans ?_ (hcontents.trans (congrArg (· ++ [_]) ?_)) <;> exact queueContents_congr rfl rfl rfl rfl rfl

end

/-- Settles O29: the cycle up to the split loop is the same for both callers, and each action after it is a step. -/
theorem pollReadsTheBurst : Obligations.PollReadsTheBurst := by
  refine ⟨?_, ?_, fun s n rest hr ht => step_advance hr ht, fun s rest hr ht hrem => step_split_end hr ht hrem,
    fun s hr ht => step_endCycle_poll hr ht, ?_⟩
  · intro s moreLine b more B moreFifo hr hf he ht hc hline hregs hfifo hn h0 hcap
    have hrun := run_pollCycle_burst (s := s.polling) hr rfl hc hline hregs hfifo rfl hn (mt List.length_eq_zero_iff.mp h0) hcap
    obtain ⟨t, hexec, hrest⟩ := exec_poll_of_run hr hf he ht hrun
    refine ⟨t, _, hexec, hrest, ?_, rx_of_store hcap rfl rfl⟩
    simp only [State.polling_hist, List.append_assoc]
    rfl
  · intro s rest moreLine b more B moreFifo hr ht hc hline hregs hfifo hn h0 hcap
    exact ⟨_, run_pollCycle_burst hr ht hc hline hregs hfifo rfl hn (mt List.length_eq_zero_iff.mp h0) hcap, rfl,
      rx_of_store hcap rfl rfl⟩
  · intro s sd m d x y hr hpt hq hroom hd ht hoff hrem hread
    obtain ⟨_, pages, occupied, links, head, tail, hrun, rfl, hcontents⟩ :=
      run_split_broadcastMsg hr hpt hq hroom hd ht hoff hrem hread
    refine ⟨_, run_add_of_run (j := 4) (k := 1) hrun
      (run_succ_of_step (step_endCycle_poll (overflow := false) (by exact hr) rfl) (run_zero _)), ?_⟩
    refine ⟨by simp [State.pollAnswer], rfl, rfl, rfl, ?_, rfl, by simp [State.pollAnswer]⟩
    rw [← hcontents]
    exact queueContents_congr rfl rfl rfl rfl rfl

end Sys2Proof.Machine
end

section
/-! The page image (20_memory.md R70), the Inbound Queue as the abstract queue (44_inbound_queue.md R241 to R247), GET_MESSAGE
(R244), and that nothing else changes the queue (R245). -/

namespace Sys2Proof.Machine

/-! ## The page image -/

theorem pageImage_eq (c : Config) (r sd : Byte) (tok : Half) (m : Byte) (d : Bytes) :
    pageImage c r sd tok m d = encode c (.frameMsg r sd tok m d) ++
      List.replicate (pageBytes - (encode c (.frameMsg r sd tok m d)).length) 0 := rfl

/-- Settles O37: the encoding has 8 bytes and the data, and the filler makes up the rest of the page. -/
theorem pageImageIsFrameThenZeros : Obligations.PageImageIsFrameThenZeros := by
  intro c r sd tok m d hd
  have hlen : (encode c (.frameMsg r sd tok m d)).length = 8 + d.length :=
    Laws.EncodeLength.frameMsg r sd tok m d c (decide_eq_true hd)
  refine ⟨pageImage_length c r sd tok m hd, ?_, fun k hk hk40 => ?_⟩
  · rw [pageImage_eq, List.take_left' hlen]
  · rw [pageImage_eq, List.getElem?_append_right (hlen.trans_le hk), List.getElem?_replicate, hlen,
      if_pos (by simp only [pageBytes]; omega)]

/-! ## Push -/

/-- The page Push takes is free, and no page of lower index is (R246). -/
theorem freePage_least {s : State} {p : Nat} (h : freePage s = some p) :
    s.occupied[p]? = some false ∧ ∀ q < p, s.occupied[q]? = some true := by
  obtain ⟨hp, hfree, hbelow⟩ := List.findIdx?_eq_some_iff_getElem.mp h
  refine ⟨?_, fun q hq => ?_⟩
  · rw [List.getElem?_eq_getElem hp]
    simpa using hfree
  · rw [List.getElem?_eq_getElem (hq.trans hp)]
    simpa using hbelow q hq

/-- Push writes no byte of another page (R241). -/
theorem readByte_push_other {s t : State} {P : Bytes} {p q : Nat} (h : push s P = .ok (true, t)) (hp : freePage s = some p)
    (hne : q ≠ p) (a : Nat) : readByte t (.page q) a = readByte s (.page q) a := by
  rcases push_cases h with ⟨e, -⟩ | ⟨p', u, -, -, hp', hw, rfl⟩
  · cases e
  · obtain rfl : p = p' := Option.some.inj (hp.symm.trans hp')
    rw [readByte_congr (sp := .page q) (linkPage_cfg u p) (linkPage_pages u p), readByte_memWrite hw, if_neg (by simp [hne])]

theorem linkPage_todo (s : State) (p : Nat) (rest : List Act) :
    linkPage { s with todo := rest } p = { linkPage s p with todo := rest } := by
  simp only [linkPage]
  split <;> rfl

/-- Push neither reads nor writes the actions still to do. -/
theorem push_todo {s t : State} {P : Bytes} (h : push s P = .ok (true, t)) (rest : List Act) :
    push { s with todo := rest } P = .ok (true, { t with todo := rest }) := by
  rcases push_cases h with ⟨e, -⟩ | ⟨p, u, -, hc, hp, hw, rfl⟩
  · cases e
  · have hw' : memWrite { s with todo := rest } (.page p) 0 P = .ok { u with todo := rest } := by
      obtain ⟨hle, rfl⟩ := memWrite_eq_ok.mp hw
      exact memWrite_eq_ok.mpr ⟨hle, rfl⟩
    have hc' : s.count ≠ queuePages := hc
    have hp' : freePage { s with todo := rest } = some p := hp
    simp only [push, hc', if_false, hp', hw', linkPage_todo]

theorem step_enqueue_pushed {s t : State} {rest : List Act} {page : Bytes} {sd : Byte} (hr : s.resetPin = false)
    (ht : s.todo = .enqueue page sd :: rest) (h : push s page = .ok (true, t)) :
    step s = .next { t with todo := rest } := by
  rw [step_action hr ht rfl]
  simp only [perform, enqueue, push_todo h]

/-- Settles O38: there is room, so a page is free; its bytes are the last of the abstract queue. -/
theorem pushAppends : Obligations.PushAppends := by
  refine ⟨fun s P hq hroom hP hn => ?_, fun s rest page sd hr ht hq hroom hP hn => ?_⟩
  · obtain ⟨t, hpush⟩ := hq.push_of_room hroom hP
    obtain ⟨ring, hring⟩ := hq
    obtain ⟨p, hp, -⟩ := hring.push hP hn hpush
    obtain ⟨hfree, hbelow⟩ := freePage_least hp
    exact ⟨t, p, hpush, QueueOk.push ⟨ring, hring⟩ hP hn hpush, queueContents_push ⟨ring, hring⟩ hP hn hpush,
      push_count hpush, hp, (hring.freePage_not_mem hp).1, hfree, hbelow, push_frame hpush,
      fun q a hne => readByte_push_other hpush hp hne a⟩
  · obtain ⟨u, hpush⟩ := hq.push_of_room hroom hP
    refine ⟨u, _, hpush, step_enqueue_pushed hr ht hpush, rfl, (hq.push hP hn hpush).congr rfl rfl rfl rfl rfl rfl rfl,
      ?_, (push_count hpush :), (congrArg State.hist (push_frame hpush) :)⟩
    rw [← queueContents_push hq hP hn hpush]
    exact queueContents_congr rfl rfl rfl rfl rfl

theorem push_of_full {s : State} (h : s.count = 20) (P : Bytes) : push s P = .ok (false, s) := if_pos h

/-- Settles O43: Push tests the count first, and the frame is dropped where it answers false (R247). -/
theorem fullQueueDropsTheNewest : Obligations.FullQueueDropsTheNewest := by
  refine ⟨fun s P h => push_of_full h P, fun s rest page sd hr ht h => ?_⟩
  have hpush : push { s with todo := rest } page = .ok (false, { s with todo := rest }) :=
    push_of_full (s := { s with todo := rest }) h page
  rw [step_action hr ht rfl]
  simp only [perform, enqueue, hpush]
  rfl

/-! ## Pull -/

theorem pull_of_head {s : State} {p : Nat} {P : Bytes} (hc : s.count ≠ 0) (hp : s.head = some p)
    (hP : memRead s (.page p) 0 pageBytes = .ok P) : pull s = .ok (some P, unlinkPage s p) := by
  simp only [pull, hc, if_false, hp, Option.getD_some, hP]

theorem pull_of_empty {s : State} (h : s.count = 0) : pull s = .ok (none, s) := if_pos h

/-- Pull changes no page byte, and of the block nothing but the queue's registers (R242). -/
theorem pull_frame {s t : State} {r : Option Bytes} (h : pull s = .ok (r, t)) :
    t = { s with occupied := t.occupied, nextLink := t.nextLink, head := t.head, tail := t.tail, count := t.count } := by
  rcases pull_cases h with ⟨-, -, rfl⟩ | ⟨P, -, -, -, rfl⟩
  · rfl
  · rw [unlinkPage_frame]

theorem pull_count {s t : State} {P : Bytes} (h : pull s = .ok (some P, t)) : t.count + 1 = s.count := by
  rcases pull_cases h with ⟨e, -, -⟩ | ⟨Q, -, hc, -, rfl⟩
  · cases e
  · rw [unlinkPage_count]
    omega

/-- Pull takes the first page off the abstract queue; it has 40 bytes, and room for the data its byte 7 counts (R44, R242). -/
theorem QueueOk.pull_oldest {s : State} (h : QueueOk s) (hc : s.count ≠ 0) :
    ∃ P t, pull s = .ok (some P, t) ∧ QueueOk t ∧ queueContents s = P :: queueContents t ∧
      P.length = pageBytes ∧ (P.getD 7 0).toNat ≤ dataMax := by
  obtain ⟨ring, hring⟩ := h
  obtain ⟨p, rest, rfl, hp⟩ := hring.head_of_count hc
  obtain ⟨P, hP, hn⟩ := hring.full p List.mem_cons_self
  have hpages (q : Nat) : pageOf (unlinkPage s p) q = pageOf s q := pageOf_congr (unlinkPage_cfg s p) (unlinkPage_pages s p)
  refine ⟨P, _, pull_of_head hc hp hP, ⟨rest, hring.unlinkPage⟩, ?_, memRead_length hP, hn⟩
  rw [hring.queueContents, hring.unlinkPage.queueContents, List.map_cons]
  congr 1
  · rw [pageOf, hP]
  · exact List.map_congr_left fun q _ => (hpages q).symm

/-- Settles O39: the head page is the first of the abstract queue. -/
theorem pullTakesTheOldest : Obligations.PullTakesTheOldest := by
  intro s hq hc
  obtain ⟨P, t, hpull, hq', hcontents, -, -⟩ := hq.pull_oldest hc
  exact ⟨P, queueContents t, t, hcontents, hpull, hq', rfl, pull_count hpull, pull_frame hpull⟩

/-- Settles O40: the page pushed is the only one, so it is the head, and it is read back whatever its bytes. -/
theorem pushThenPull : Obligations.PushThenPull := by
  intro s P hq hempty hP
  obtain ⟨t, hpush⟩ := hq.push_of_room (by omega) hP
  rcases push_cases hpush with ⟨e, -⟩ | ⟨p, u, -, -, -, hw, rfl⟩
  · cases e
  have hu : u.count = 0 := by
    obtain ⟨-, rfl⟩ := memWrite_eq_ok.mp hw
    exact hempty
  have hhead : (linkPage u p).head = some p := by simp only [linkPage, hu, if_true]
  have hread : memRead (linkPage u p) (.page p) 0 pageBytes = .ok P := by
    rw [memRead_congr (sp := .page p) (linkPage_cfg u p) (linkPage_pages u p), ← memRead_memWrite_same hw, hP]
    rfl
  refine ⟨_, _, hpush, pull_of_head (by simp) hhead hread, by simp [hu], ?_, ?_⟩ <;>
    simp only [unlinkPage, hhead, linkPage_tail, if_true]

/-! ## GET_MESSAGE -/

section
variable {s : State} (hf : s.fault = false)
include hf

theorem exec_getMessage_of_pull {P : Bytes} {t : State} (h : pull (acceptBare s opGetMessage) = .ok (some P, t)) :
    exec .getMessage s = .next (respond t ⟨true, .ok, messageOf P⟩) := by
  have hg : gateAny (acceptBare s opGetMessage) = none := if_neg (ne_true_of_eq_false hf)
  simp only [exec, execGetMessage, hg, h]

theorem exec_getMessage_of_empty (h : s.count = 0) :
    exec .getMessage s = .next (refuse (acceptBare s opGetMessage) .queueEmpty) := by
  have hg : gateAny (acceptBare s opGetMessage) = none := if_neg (ne_true_of_eq_false hf)
  have hpull : pull (acceptBare s opGetMessage) = .ok (none, acceptBare s opGetMessage) := pull_of_empty h
  simp only [exec, execGetMessage, hg, hpull]

end

/-- Settles O42: Pull answers nothing, so the command ends as a refused one does. -/
theorem getMessageOnEmptyAnswersNone : Obligations.GetMessageOnEmptyAnswersNone := by
  intro s hf hc
  have hexec := exec_getMessage_of_empty hf hc
  obtain ⟨t, ht, hrsp, hbusy, hsame, hhist, hshown⟩ := refuse_accept hexec rfl rfl
  obtain rfl := Host.Outcome.next.inj (hexec.symm.trans ht)
  exact ⟨_, ht, hrsp, hbusy, rfl, hsame, hhist, hshown⟩

/-- The fields of the answer to a page of 40 bytes: bytes 2, 6 and 7, and the data with zeros beyond its length (R244). -/
theorem messageOf_fields {P : Bytes} (hP : P.length = pageBytes) (hn : (P.getD 7 0).toNat ≤ dataMax) :
    ∃ sd m n data, messageOf P = .message sd m n data ∧ P[2]? = some sd ∧ P[6]? = some m ∧ P[7]? = some n ∧
      n.toNat ≤ 32 ∧ data.length = 32 ∧ data.take n.toNat = (P.drop 8).take n.toNat ∧
      ∀ k, n.toNat ≤ k → k < 32 → data[k]? = some 0 := by
  have hbyte {k : Nat} (hk : k < 40) : P[k]? = some (P.getD k 0) := by
    have hk' : k < P.length := hP ▸ hk
    rw [List.getElem?_eq_getElem hk', List.getD_eq_getElem _ _ hk']
  have hdata : ((P.drop 8).take (P.getD 7 0).toNat).length = (P.getD 7 0).toNat := by
    rw [List.length_take, List.length_drop, hP]
    simp only [pageBytes, dataMax] at hn ⊢
    omega
  refine ⟨_, _, _, _, rfl, hbyte (by omega), hbyte (by omega), hbyte (by omega), hn, ?_, List.take_left' hdata,
    fun k hk hk32 => ?_⟩
  · rw [List.length_append, hdata, List.length_replicate]
    exact Nat.add_sub_of_le hn
  · rw [List.getElem?_append_right (hdata.trans_le hk), List.getElem?_replicate, hdata,
      if_pos (by simp only [dataMax]; omega)]

/-- Settles O41: the acceptance leaves the queue alone, Pull takes its first page, and the response is read off that page. -/
theorem getMessageAnswersTheOldest : Obligations.GetMessageAnswersTheOldest := by
  intro s P rest hq hf hcontents
  have hc : s.count ≠ 0 := fun hc => by simp [queueContents, hc, walkFrom] at hcontents
  have hq' : QueueOk (acceptBare s opGetMessage) := hq.congr rfl rfl rfl rfl rfl rfl rfl
  obtain ⟨Q, t, hpull, ht, hcontents', hQ, hn⟩ := hq'.pull_oldest hc
  have hsame : queueContents (acceptBare s opGetMessage) = queueContents s := queueContents_congr rfl rfl rfl rfl rfl
  obtain ⟨rfl, rfl⟩ := List.cons.inj (hcontents.symm.trans (hsame.symm.trans hcontents'))
  obtain ⟨sd, m, n, data, hmsg, h2, h6, h7, hle, hlen, htake, hzero⟩ := messageOf_fields hQ hn
  have hexec := exec_getMessage_of_pull hf hpull
  rw [hmsg] at hexec
  refine ⟨_, sd, m, n, data, hexec, h2, h6, h7, hle, hlen, htake, hzero, rfl, rfl, queueContents_congr rfl rfl rfl rfl rfl,
    ht.congr rfl rfl rfl rfl rfl rfl rfl, ?_⟩
  rw [pull_frame hpull]
  simp [respond, acceptBare, accept, latchCode, opGetMessage]

/-! ## What else could change the queue -/

/-- The pages and the registers of the queue. -/
def State.queue (s : State) := (s.pages, s.occupied, s.nextLink, s.head, s.tail, s.count)

theorem Ends.queue {s t : State} {c : Caller} (h : Ends s c t) : t.queue = s.queue := by
  cases h <;> rfl

theorem Cycles.queue {s t : State} {c : Caller} (h : Cycles s c t) : t.queue = s.queue := by
  cases h with
  | high => rfl
  | low _ _ _ h => exact (h.queue :)

theorem Runs.queue {s t : State} {i : Instr} (h : Runs s i t) (hi : i ≠ .getMessage) : t.queue = s.queue := by
  cases h with
  | poll l _ _ h => exact (h.queue :)
  | getMessage => exact absurd rfl hi
  | _ => rfl

/-- No transaction and no frame is a GET_MESSAGE, so of the actions only a push changes the queue. -/
theorem Performs.queue {s t : State} {a : Act} (h : Performs s a t) (hok : a.ok s.cfg)
    (ha : ∀ page sd, a ≠ .enqueue page sd) : t.queue = s.queue := by
  cases h with
  | issue h => exact (h.queue (by rintro rfl; cases hok.1) :)
  | pollCycle h => exact h.queue
  | endCycle h => exact h.queue
  | frame _ hi _ h => exact (h.queue (by rintro rfl; cases hi) :)
  | enqueue => exact absurd rfl (ha _ _)
  | _ => rfl

/-- Settles O54: by what the step performs or accepts; a refused command changes nothing of the queue. -/
theorem onlyPushAndPullChangeTheQueue : Obligations.OnlyPushAndPullChangeTheQueue := by
  intro s t hctl hreset hstep hpush hget
  have hqueue : t.queue = s.queue := by
    cases Steps.of_step hstep with
    | reset hr => simp [hreset] at hr
    | stay => rfl
    | @action a rest _ ht h =>
      exact h.queue (hctl.acts a (by simp [ht])) fun page sd e => hpush page sd rest (e ▸ ht)
    | command ht _ hp hd h => exact h.queue fun e => hget _ _ hp ht (e ▸ hd)
    | reserved => rfl
  simpa only [State.queue, Prod.mk.injEq] using hqueue

end Sys2Proof.Machine
end

section
/-! Where the block stops making progress (60_exceptions.md): a transaction that never completes and a spin without a limit
(R270, R310), a spin that reaches its limit (R271), and the refusal of every command once `fault` is set (R272). -/

namespace Sys2Proof.Machine

/-! ## The hang -/

/-- Settles O14: a hung block steps to itself. -/
theorem hungBlockNeverMoves : Obligations.HungBlockNeverMoves := by
  intro s k hr hung
  induction k with
  | zero => exact run_zero s
  | succ k ih => exact run_succ_of_step (step_hung hr hung) ih

/-- Settles O25: without a limit no count of unsuccessful reads is the limit. -/
theorem spinWithoutLimitNeverEnds : Obligations.SpinWithoutLimitNeverEnds := by
  intro s p rest others hr ht hl hc hb hregs hno
  have hspin := run_unsuccessful_reads (more := []) hr ht hc (hregs.trans (List.append_nil others).symm) hno (by simp [hl])
  exact ⟨_, hspin, rfl, hb, rfl, rfl⟩

/-! ## The time-out -/

/-- A byte that is not the awaited state and makes the count reach the limit ends the command (R271). -/
theorem step_test_timeout {s : State} {p : Awaited} {rest : List Act} (hr : s.resetPin = false) (ht : s.todo = .test p :: rest)
    (hno : awaitedState s p s.rdData = false) (hl : s.cfg.spinLimit = some (s.spinCount + 1)) :
    step s = .next (abortTimeout { s with spinCount := s.spinCount + 1, todo := rest } p) := by
  rw [step_action hr ht rfl]
  have htest : testState { s with todo := rest } p = spinAgain { s with todo := rest } p :=
    if_neg (ne_true_of_eq_false hno)
  simp only [perform, htest, spinAgain, hl, if_true]

theorem abortTimeout_eq (s : State) (p : Awaited) : abortTimeout s p = { s with
    fault := true, busy := false, rsp := some ⟨false, .radioTimeout, .nothing⟩, todo := []
    hist := s.hist ++ [.raised (.radioTimeout p), .response ⟨false, .radioTimeout, .nothing⟩] } := by
  simp [abortTimeout, respond, State.log]

/-- The unsuccessful read that makes the count reach the limit ends the spin and the command. -/
theorem run_spin_timeout {s : State} {p : Awaited} {rest : List Act} {others more : Bytes} {last : Byte}
    (hr : s.resetPin = false) (ht : s.todo = .issue (.readReg s.cfg.radio.regMarcstate) :: .test p :: rest)
    (hc : s.radioCompletes) (hregs : s.env.regs = others ++ last :: more) (hno : ∀ b ∈ others, awaitedState s p b = false)
    (hlast : awaitedState s p last = false) (hl : s.cfg.spinLimit = some (s.spinCount + others.length + 1)) :
    run (2 * others.length + 2) s = .next (abortTimeout { s with
      todo := rest, rdData := last, spinCount := s.spinCount + others.length + 1, env := { s.env with regs := more }
      hist := s.hist ++ (others ++ [last]).map (.readReg s.cfg.radio.regMarcstate) } p) := by
  refine run_add_of_run (run_unsuccessful_reads hr ht hc hregs hno ?_) ?_
  · intro k hk h
    have := Option.some.inj (hl.symm.trans h)
    omega
  rw [State.spinCountAfter_of_some hl]
  refine run_succ_of_step (step_readReg hr ht hc rfl) (run_succ_of_step (step_test_timeout hr rfl hlast hl) ?_)
  simp [run_zero]

/-- Settles O24: Confirm begins with the count at zero, so the last of the `n` reads makes it reach the limit. -/
theorem confirmTimesOutAtTheLimit : Obligations.ConfirmTimesOutAtTheLimit := by
  intro s p rest reads more n hr ht hl hn hc hlen hregs hno
  have hne : reads ≠ [] := List.ne_nil_of_length_pos (hlen ▸ hn)
  obtain ⟨others, last, rfl⟩ := (List.eq_nil_or_concat' reads).resolve_left hne
  obtain ⟨hothers, hlast⟩ := List.forall_mem_append.mp hno
  obtain rfl : others.length + 1 = n := by simpa using hlen
  have hconfirm := step_confirm hr ht
  rw [if_pos (Option.isSome_of_eq_some hl)] at hconfirm
  rw [Nat.add_comm, Nat.mul_succ]
  have hregs : s.env.regs = others ++ last :: more := by simpa using hregs
  have hl : s.cfg.spinLimit = some (0 + others.length + 1) := by simpa using hl
  refine ⟨_, run_succ_of_step hconfirm (run_spin_timeout hr rfl hc hregs hothers
    (hlast last (List.mem_singleton_self last)) hl), ?_⟩
  simp [abortTimeout_eq]

/-! ## The refusals of a faulted block -/

/-- A record begins with one code only. -/
theorem code_of_first {op op' : BitVec 3} (h : some (codeByte op) = some (op'.setWidth 8)) : op = op' := by
  simpa [codeByte] using congrArg (BitVec.setWidth 3) (Option.some.inj h)

section
variable {s : State} (hf : s.fault = true)
include hf

theorem gateInit_of_faulted : gateInit s = some .faulted := if_pos hf

theorem gateRunning_of_faulted : gateRunning s = some .faulted := if_pos hf

theorem refuseReserved_of_faulted (op : BitVec 3) : refuseReserved s op = refuse (acceptBare s op) .faulted := by
  have hg : gateReserved (acceptBare s op) = .faulted := if_pos hf
  simp only [refuseReserved, hg]

theorem exec_getMessage_of_faulted : exec .getMessage s = .next (refuse (acceptBare s opGetMessage) .faulted) := by
  have hg : gateAny (acceptBare s opGetMessage) = some .faulted := if_pos hf
  simp only [exec, execGetMessage, hg]

theorem beginDiagnostic_of_faulted (op : BitVec 3) (id : Byte) :
    beginDiagnostic s op id = refuse (acceptBare s op) .faulted := by
  have hg : gateAny (acceptBare s op) = some .faulted := if_pos hf
  simp only [beginDiagnostic, hg]

/-- Each of the six commands is accepted with its own code and refused (R180, R272). -/
theorem exec_of_faulted {i : Instr} {op : BitVec 3} (hi : i.format = .cmd)
    (hop : (encode s.cfg i).head? = some (op.setWidth 8)) :
    ∃ l data, exec i s = .next (refuse (accept s l data) .faulted) ∧ l.opCode = op := by
  cases i with
  | init a p g => exact ⟨_, _, exec_init_refused (gateInit_of_faulted hf), code_of_first hop⟩
  | poll => exact ⟨_, _, exec_poll_refused (gateRunning_of_faulted hf), code_of_first hop⟩
  | getMessage => exact ⟨_, _, exec_getMessage_of_faulted hf, code_of_first hop⟩
  | postMessage r m n d k =>
    exact ⟨_, _, exec_postMessage_refused (gateRunning_of_faulted hf), code_of_first hop⟩
  | getVersion =>
    exact ⟨_, _, congrArg Host.Outcome.next (beginDiagnostic_of_faulted hf _ _), code_of_first hop⟩
  | getPartNumber =>
    exact ⟨_, _, congrArg Host.Outcome.next (beginDiagnostic_of_faulted hf _ _), code_of_first hop⟩
  | frameAck | frameMsg | readReg | writeReg | readBurst | writeBurst | strobe => cases hi

end

/-- What the refusal of an accepted command leaves, with nothing left to do. -/
theorem refuse_accept_ends {s : State} {l : Latches} {data : Memory} {code : RspCode} {op : BitVec 3} {e : Raised} {r : Result}
    (h : r = .next (refuse (accept s l data) code)) (hop : l.opCode = op) (he : refusalEvent op code = some e) :
    ∃ t, r = .next t ∧ t.rsp = some ⟨false, code, .nothing⟩ ∧ t.busy = false ∧ t.todo = [] ∧ SameButPort s t ∧
      t.hist = s.hist ++ [.accepted op, .response ⟨false, code, .nothing⟩] ∧ t.eventsShown = s.eventsShown ++ [e] := by
  obtain ⟨t, ht, hrsp, hbusy, hrest⟩ := refuse_accept h hop he
  obtain rfl := Host.Outcome.next.inj (h.symm.trans ht)
  exact ⟨_, ht, hrsp, hbusy, rfl, hrest⟩

/-! ## Nothing but reset clears `fault` -/

theorem Ends.fault {s t : State} {c : Caller} (h : Ends s c t) : t.fault = s.fault := by
  cases h <;> rfl

theorem Cycles.fault {s t : State} {c : Caller} (h : Cycles s c t) : t.fault = s.fault := by
  cases h with
  | high => rfl
  | low _ _ _ h => exact (h.fault :)

theorem Runs.fault {s t : State} {i : Instr} (h : Runs s i t) : t.fault = s.fault := by
  cases h with
  | poll _ _ _ h => exact (h.fault :)
  | getMessage => rw [unlinkPage_frame]; rfl
  | _ => rfl

/-- The time-out is the one action that changes `fault`, and it sets it. -/
theorem Performs.keeps_fault {s t : State} {a : Act} (h : Performs s a t) (hf : s.fault = true) : t.fault = true := by
  cases h with
  | issue h => exact h.fault.trans hf
  | frame _ _ _ h => exact h.fault.trans hf
  | pollCycle h => exact h.fault.trans hf
  | endCycle h => exact h.fault.trans hf
  | timeout => rfl
  | enqueue h => rw [push_frame h]; exact hf
  | _ => exact hf

theorem step_keeps_fault {s t : State} (hr : s.resetPin = false) (hf : s.fault = true) (h : step s = .next t) :
    t.fault = true := by
  cases Steps.of_step h with
  | reset hreset => simp [hr] at hreset
  | stay => exact hf
  | action _ h => exact h.keeps_fault hf
  | command _ _ _ _ h => exact h.fault.trans hf
  | reserved => exact hf

/-- Settles O15: the gating tests `fault` first (R280), and a refusal changes the block at the port only. -/
theorem faultedRefusesEveryCommand : Obligations.FaultedRefusesEveryCommand := by
  refine ⟨fun i s op hi hop hf => ?_, fun s op record others hr ht hb hp hd hf => ?_, fun s t hr hf h =>
    step_keeps_fault hr hf h⟩
  · obtain ⟨l, data, hexec, hl⟩ := exec_of_faulted hf hi hop
    exact refuse_accept_ends hexec hl rfl
  · have hstep := step_reserved hr ht hb hp hd
    rw [refuseReserved_of_faulted (s := { s with cmdPort := others }) hf] at hstep
    exact refuse_accept_ends hstep rfl rfl

end Sys2Proof.Machine
end

section
/-! Reset asserted, in the middle of a command too (70_reset_and_hazards.md R300, R301). -/

namespace Sys2Proof.Machine

/-- No command is in progress after reset, so the port takes the next one (R45, R300). -/
@[simp] theorem assertReset_cmdReady (s : State) : (assertReset s).cmdReady = true := rfl

/-- The ring of occupied pages is empty after reset (R44, R50). -/
@[simp] theorem queueContents_assertReset (s : State) : queueContents (assertReset s) = [] :=
  (ring_assertReset s).queueContents

/-- Settles O2: a step looks at the reset input first, whatever is in progress. -/
theorem resetAbandonsTheCommand : Obligations.ResetAbandonsTheCommand := fun s hr =>
  ⟨assertReset s, step_reset hr, rfl, assertReset_cmdReady s, queueContents_assertReset s⟩

end Sys2Proof.Machine
end
